-- ==== Sys2Proof/Word.lean ====
section
/-! DEFINITION. The value types of HW2CORE (00_scope.md R6, R11): unsigned, of a stated width. -/

namespace Sys2Proof

/-- `u32`: an operand, a single-word result or a 16.16 fixed-point value (R6, 30_encoding.md R60). -/
abbrev Word := BitVec 32

/-- `u64`: a widened product (42_multiply.md R76) and the multiplier datapath (10_state.md R26). -/
abbrev DWord := BitVec 64

/-- The value of the port `op[2:0]` (00_scope.md R9: `OPW = 3`). -/
abbrev OpCode := BitVec 3

/-- The 67-bit command word `{op, b, a}` (30_encoding.md R51). -/
abbrev CommandWord := BitVec 67

/-- The content of the seed ROM: exactly 32 entries of 32 bits (00_scope.md R7, R8; 20_memory.md R35). -/
abbrev SeedTable := Vector Word 32

end Sys2Proof
end

