-- ==== Sys2Proof/Syntax.lean ====
section
/-! DEFINITION. The instructions of HW2CORE: its five operations, each with the two operands the one
command format carries (30_encoding.md R50, R52, R53). -/

namespace Sys2Proof

/-- One command `(op, a, b)`: a constructor per row of the operation table (30_encoding.md R52). -/
inductive Instr where
  /-- `CLZ a`: leading-zero count (41_clz.md R72). `b` is latched and never read (30_encoding.md R53). -/
  | clz (a b : Word)
  /-- `MULW a, b`: widening multiply (42_multiply.md R80). -/
  | mulw (a b : Word)
  /-- `MUL a, b`: narrow multiply (42_multiply.md R81). -/
  | mul (a b : Word)
  /-- `DIVREM a, b`: dividend `a`, divisor `b` (43_divide.md R94). -/
  | divrem (a b : Word)
  /-- `RSQRT a`: reciprocal square root (44_rsqrt.md R110). `b` is latched and never read. -/
  | rsqrt (a b : Word)
  deriving DecidableEq, Repr

end Sys2Proof
end

