-- ==== Sys2Proof/Decode.lean ====
section
/-! DEFINITION. The decoder and the encoder of commands (30_encoding.md R50 to R57). A command is the
three port values `op`, `a`, `b`; the 67-bit command word `{op, b, a}` is the spec's notation for them. -/

namespace Sys2Proof

/-- Why a command is not one of the five operations. -/
inductive DecodeReject where
  /-- `op` is 5, 6 or 7 (30_encoding.md R55). No step stops on it: the block ignores such a command. -/
  | reservedOp (op : OpCode)
  deriving DecidableEq, Repr

/-- The operation code map: the decoder looks at `op` alone (30_encoding.md R52), takes the operands
whole (R53), and names a reserved code (R55). -/
def decodeCommand (op : OpCode) (a b : Word) : Except DecodeReject Instr :=
  match op with
  | 0#3 => .ok (.clz a b)
  | 1#3 => .ok (.mulw a b)
  | 2#3 => .ok (.mul a b)
  | 3#3 => .ok (.divrem a b)
  | 4#3 => .ok (.rsqrt a b)
  | _ => .error (.reservedOp op)

/-- `CMD[66:64]` (30_encoding.md R50). -/
def CommandWord.op (w : CommandWord) : OpCode := w.extractLsb' 64 3

/-- `CMD[63:32]` (30_encoding.md R50). -/
def CommandWord.b (w : CommandWord) : Word := w.extractLsb' 32 32

/-- `CMD[31:0]` (30_encoding.md R50). -/
def CommandWord.a (w : CommandWord) : Word := w.extractLsb' 0 32

/-- Decode a command word (30_encoding.md R51, R52). Total: every word is a command or a named rejection. -/
def decode (w : CommandWord) : Except DecodeReject Instr :=
  decodeCommand (CommandWord.op w) (CommandWord.a w) (CommandWord.b w)

/-- The operation code of an instruction (30_encoding.md R52). -/
def Instr.op : Instr → OpCode
  | .clz _ _ => 0
  | .mulw _ _ => 1
  | .mul _ _ => 2
  | .divrem _ _ => 3
  | .rsqrt _ _ => 4

/-- The value an instruction puts on port `a` (30_encoding.md R53). -/
def Instr.a : Instr → Word
  | .clz a _ => a
  | .mulw a _ => a
  | .mul a _ => a
  | .divrem a _ => a
  | .rsqrt a _ => a

/-- The value an instruction puts on port `b` (30_encoding.md R53). -/
def Instr.b : Instr → Word
  | .clz _ b => b
  | .mulw _ b => b
  | .mul _ b => b
  | .divrem _ b => b
  | .rsqrt _ b => b

/-- The command word `{op, b, a}` of an instruction (30_encoding.md R51). -/
def encode (i : Instr) : CommandWord := (i.op ++ i.b) ++ i.a

/-- The command word whose bits are `w`, numbered as the opcode table numbers them (30_encoding.md R51:
bit 0 of `w` is `CMD[0]`). Bits from `nbits` up are 0; a command has no bit above 66 (assumption 8). -/
def commandWordOf (nbits w : Nat) : CommandWord := BitVec.ofNat 67 (w % 2 ^ nbits)

/-- The instruction the decoder reads from a row's bits; none for a reserved operation code. -/
def decodeTableWord (nbits w : Nat) : Option Instr :=
  match decode (commandWordOf nbits w) with
  | .ok i => some i
  | .error _ => none

end Sys2Proof
end

