-- ==== Sys2Proof/Machine/Ports.lean ====
section
/-! DEFINITION. The ports of the block (10_state.md R29) and the primitive lines of a command script
(30_encoding.md R58), by which the environment drives them. -/

namespace Sys2Proof.Machine

/-- The inputs `in = (rst, start, op, a, b)` of one step (10_state.md R29). -/
structure Input where
  rst : Bool
  start : Bool
  op : OpCode
  a : Word
  b : Word
  deriving DecidableEq, Repr, Inhabited

/-- What the output ports show after a step: `(busy, done, r0, r1)` (10_state.md R29). -/
structure Observation where
  busy : Bool
  done : Bool
  r0 : Word
  r1 : Word
  deriving DecidableEq, Repr

/-- The lines every other script line abbreviates (30_encoding.md R58). -/
inductive ScriptLine where
  /-- `STEP rst, start, op, a, b`: exactly one step with these inputs. -/
  | step (inp : Input)
  /-- `IDLE n`: `n` steps with all inputs 0; none when `n = 0`. -/
  | idle (n : Nat)
  /-- `WAIT`: steps with all inputs 0 while `DONE == 0` after the previous step. -/
  | wait
  deriving DecidableEq, Repr

/-- `STEP 0, 0, 0, 0, 0` (30_encoding.md R58). -/
def Input.idle : Input := ⟨false, false, 0, 0, 0⟩

/-- `STEP 1, 0, 0, 0, 0`, the line `RESET` (30_encoding.md R58). -/
def Input.reset : Input := ⟨true, false, 0, 0, 0⟩

/-- `STEP 0, 1, op, a, b`: a mnemonic line offers its command for one step (30_encoding.md R58). -/
def Input.offer (i : Instr) : Input := ⟨false, true, i.op, i.a, i.b⟩

/-- The command the inputs offer: `start == 1` and a legal `op` (40_sequencer.md R61, R63); a reserved
`op` offers nothing (30_encoding.md R55). -/
def Input.offered (inp : Input) : Option Instr :=
  if inp.start then
    match decodeCommand inp.op inp.a inp.b with
    | .ok i => some i
    | .error _ => none
  else none

end Sys2Proof.Machine
end

