-- ==== Sys2Proof/Config.lean ====
section
/-! DEFINITION. What is fixed for an instance (00_scope.md R6 to R9): the format's constants, the default
seed table, and the one free value, the environment's inputs past the end of the script. -/

namespace Sys2Proof.Config

/-- The default content of the seed ROM (20_memory.md R41), index 0 first. -/
def defaultSeed : SeedTable :=
  #v[65536, 46341, 32768, 23170, 16384, 11585, 8192, 5792,
     4096, 2896, 2048, 1448, 1024, 724, 512, 362,
     256, 181, 128, 90, 64, 45, 32, 22,
     16, 11, 8, 5, 4, 2, 2, 1]

/-- The all-ones result of `RSQRT 0` (44_rsqrt.md R105; 30_encoding.md R60). -/
def sentinel : Word := 0xFFFFFFFF

/-- `1.0` in 16.16 fixed point, the result of `RSQRT 1` (44_rsqrt.md R105). -/
def fixedOne : Word := 0x00010000

/-- `3 << 16`, `3.0` in 16.16 fixed point (44_rsqrt.md R108; 90_conflicts.md C1). -/
def fixedThree : Word := 0x00030000

/-- The inputs at the `n`-th edge after the end of the script: the environment chooses them freely
(40_sequencer.md R62), so nothing constrains them (assumption 4). -/
opaque envInput : Nat → Machine.Input

end Sys2Proof.Config
end

