-- ==== Sys2Proof/Machine/State.lean ====
section
/-! DEFINITION. The state of one block: the 18 registers of 10_state.md R20, and beside them what the
spec calls no state but a step needs: the ROM content and the inputs to come (10_state.md R33). -/

namespace Sys2Proof.Machine

/-- The 18 registers, 463 bits (10_state.md R20). -/
structure Regs where
  /-- `BUSY`: a command is being executed (R23). -/
  busy : Bool
  /-- `DONE`: a command has completed and none has been accepted since (R23). -/
  done : Bool
  /-- `OPR`: operation code of the command in execution, or of the last one (R24). -/
  opr : OpCode
  /-- `PH`: phase of the `RSQRT` sequence (R24). -/
  ph : BitVec 3
  /-- `ITER`: Newton iteration in progress, false for the first (R24). -/
  iter : Bool
  /-- `CNT`: iterations of the serial loop still to do (R24). -/
  cnt : BitVec 6
  /-- `XA`: latched first operand (R21). -/
  xa : Word
  /-- `XB`: latched second operand (R21). -/
  xb : Word
  /-- `R0`: primary result (R21). -/
  r0 : Word
  /-- `R1`: secondary result (R21). -/
  r1 : Word
  /-- `ACC`: multiplier accumulator (R26). -/
  acc : DWord
  /-- `MCAND`: multiplicand, widened and shifted left (R26). -/
  mcand : DWord
  /-- `MPLIER`: multiplier bits not yet examined (R26). -/
  mplier : Word
  /-- `REM`: running remainder (R27). -/
  rem : Word
  /-- `QUO`: quotient bits so far (R27). -/
  quo : Word
  /-- `DVD`: dividend bits not yet consumed (R27). -/
  dvd : Word
  /-- `Y`: current estimate, 16.16 (R28). -/
  y : Word
  /-- `T`: `y2` after phase 2, `(3<<16) - xy2` after phase 3 (R28). -/
  t : Word
  deriving DecidableEq, Repr

/-- The state a step reads and writes. -/
structure State where
  /-- The 18 registers of the block (10_state.md R20). -/
  regs : Regs
  /-- `SEED`, the ROM content of the instance (20_memory.md R35, R39). No step writes it (assumption 1). -/
  seed : SeedTable
  /-- The steps the environment has still to apply, first one first (30_encoding.md R58; assumption 3). -/
  script : List ScriptLine
  /-- How many edges were taken past the script's end: the model's own counter (assumption 4). -/
  envTick : Nat
  deriving DecidableEq, Repr

/-- Why a step could stop with a fault. The block raises nothing: "the set of exception causes is empty"
(60_exceptions.md R120), so there is no constructor. -/
inductive Fault where
  deriving DecidableEq, Repr

/-- Why a step could be refused. -/
inductive Refusal where
  /-- Raised by nobody: every operation has its meaning. It would be safe: a run that stops proves nothing
  false. -/
  | notModelled (mnemonic : String)
  deriving DecidableEq, Repr

/-- The registers after a reset step: every one 0 (10_state.md R31; 70_reset_and_hazards.md R140). -/
def Regs.reset : Regs where
  busy := false
  done := false
  opr := 0
  ph := 0
  iter := false
  cnt := 0
  xa := 0
  xb := 0
  r0 := 0
  r1 := 0
  acc := 0
  mcand := 0
  mplier := 0
  rem := 0
  quo := 0
  dvd := 0
  y := 0
  t := 0

/-- The machine right after reset (10_state.md R31), with the default ROM (20_memory.md R41) and no input
yet decided by a script (assumptions 1 to 4). -/
def State.reset : State where
  regs := Regs.reset
  seed := Config.defaultSeed
  script := []
  envTick := 0

end Sys2Proof.Machine
end

