-- ==== Sys2Proof/Machine/Flags.lean ====
section
/-! DEFINITION. The two flags `BUSY` and `DONE` (10_state.md R23): set and cleared by the accept step and
by completion, by nothing else but reset. There are no condition codes. -/

namespace Sys2Proof.Machine

/-- `BUSY <- 1; DONE <- 0`, at every accept step (40_sequencer.md R63). -/
def markAccepted (r : Regs) : Regs := { r with busy := true, done := false }

/-- `complete(r0, r1)`: `R0 <- r0; R1 <- r1; BUSY <- 0; DONE <- 1` (40_sequencer.md R66). -/
def complete (r0 r1 : Word) (r : Regs) : Regs := { r with r0 := r0, r1 := r1, busy := false, done := true }

end Sys2Proof.Machine
end

