-- ==== Sys2Proof/Machine/Operands.lean ====
section
/-! DEFINITION. Operands and the layout of results: the operand latches (40_sequencer.md R63), the slices
of a product (44_rsqrt.md R104), and the 16.16 format (30_encoding.md R60). -/

namespace Sys2Proof.Machine

/-- `v[31:0]` of a product (00_scope.md R12). -/
def loWord (v : DWord) : Word := v.extractLsb' 0 32

/-- `v[63:32]` of a product (00_scope.md R12; 30_encoding.md R54). -/
def hiWord (v : DWord) : Word := v.extractLsb' 32 32

/-- `v[47:16]`: a product rescaled by 16 and truncated to 32 bits (44_rsqrt.md R104, R109). -/
def rescale16 (v : DWord) : Word := v.extractLsb' 16 32

/-- `v[48:17]`: a product rescaled by 17 and truncated to 32 bits (44_rsqrt.md R104, R109). -/
def rescale17 (v : DWord) : Word := v.extractLsb' 17 32

/-- The integer part `v[31:16]` of a 16.16 value (30_encoding.md R60). R60 says that the sentinel is not to be
split: that this total function answers `0xFFFF` for it is the model's DESIGN CHOICE and means nothing
(assumption 13). `splitFixed` is the reading that keeps the sentinel whole. -/
def fixedInt (v : Word) : BitVec 16 := v.extractLsb' 16 16

/-- The fractional part `v[15:0]` of a 16.16 value (30_encoding.md R60). R60 says that the sentinel is not to be
split: that this total function answers `0xFFFF` for it is the model's DESIGN CHOICE and means nothing
(assumption 13). `splitFixed` is the reading that keeps the sentinel whole. -/
def fixedFrac (v : Word) : BitVec 16 := v.extractLsb' 0 16

/-- How a consumer splits a 16.16 value: integer and fractional part, and no parts for the sentinel, which is not
to be split (30_encoding.md R60). -/
def splitFixed (v : Word) : Option (BitVec 16 × BitVec 16) :=
  if v = Config.sentinel then none else some (fixedInt v, fixedFrac v)

/-- `OPR <- in.op; XA <- in.a; XB <- in.b`: the operands are copied whole, once, at the accept step
(40_sequencer.md R63; 30_encoding.md R53). -/
def latch (op : OpCode) (a b : Word) (r : Regs) : Regs := { r with opr := op, xa := a, xb := b }

end Sys2Proof.Machine
end

