-- ==== Sys2Proof/Machine/Ops.lean ====
section
/-! DEFINITION. The shared operations: the seed ROM's reads, the sampling of the input ports, the reset
step, the observation, and the accept step every operation begins with. There is no exception to take and
none to return from (60_exceptions.md R120, R124, R125). -/

namespace Sys2Proof.Machine

/-- `RomRead(i)`: entry `i` of the seed ROM (20_memory.md R36). -/
def romRead (seed : SeedTable) (i : Fin 32) : Word := seed[i]

/-- `SEEDX(i)`: entry `i`, and 0 beyond the last one (20_memory.md R37). -/
def seedX (seed : SeedTable) (i : Nat) : Word := if h : i < 32 then romRead seed ⟨i, h⟩ else 0

/-- What the output ports show: functions of the state alone (10_state.md R29). -/
def Regs.observe (r : Regs) : Observation := ⟨r.busy, r.done, r.r0, r.r1⟩

/-- The observation of a state (10_state.md R29). -/
def State.observe (s : State) : Observation := s.regs.observe

/-- The same machine with other registers: ROM and inputs as before. -/
def State.withRegs (s : State) (r : Regs) : State := { s with regs := r }

/-- The inputs of the next step of a script and the lines left after it, given `DONE` after the previous
step (30_encoding.md R58). `IDLE 0`, and `WAIT` with `DONE == 1`, stand for no step and are passed over. -/
def nextInput (done : Bool) : List ScriptLine → Option (Input × List ScriptLine)
  | [] => none
  | .step inp :: rest => some (inp, rest)
  | .idle 0 :: rest => nextInput done rest
  | .idle (n + 1) :: rest => some (Input.idle, .idle n :: rest)
  | .wait :: rest => if done then nextInput done rest else some (Input.idle, .wait :: rest)

/-- The values on the input ports at this edge: the script's, and past its end whatever the environment
drives (40_sequencer.md R62). -/
def State.ports (s : State) : Input :=
  match nextInput s.regs.done s.script with
  | some (inp, _) => inp
  | none => Config.envInput s.envTick

/-- The state once the ports of this edge are sampled: the script moves on, the registers do not. -/
def State.sampled (s : State) : State :=
  match nextInput s.regs.done s.script with
  | some (_, rest) => { s with script := rest }
  | none => { s with script := [], envTick := s.envTick + 1 }

/-- Drive these values on the ports at the next edge, before the rest of the script. -/
def State.drive (s : State) (inp : Input) : State := { s with script := .step inp :: s.script }

/-- The inputs that offer the command of a table word (30_encoding.md R50, R51), legal or reserved. -/
def offerWord (nbits w : Nat) : Input :=
  let c := commandWordOf nbits w
  ⟨false, true, CommandWord.op c, CommandWord.a c, CommandWord.b c⟩

/-- Reset step: every register 0 whatever the state and the other inputs (70_reset_and_hazards.md R140); the
ROM is not touched (R142). -/
def resetStep (s : State) : State := s.withRegs Regs.reset

/-- The part of the accept step common to all operations: `OPR`, `XA`, `XB`, `BUSY`, `DONE`
(40_sequencer.md R63). -/
def acceptCommand (op : OpCode) (a b : Word) (r : Regs) : Regs := markAccepted (latch op a b r)

end Sys2Proof.Machine
end

