-- ==== Sys2Proof/Machine/Clz.lean ====
section
/-! DEFINITION. `CLZ`, the leading-zero counter (41_clz.md). -/

namespace Sys2Proof.Machine

/-- One stage of the cascade, for a group of `w` bits: when the top `w` bits of `v` are zero, move them out
and count them (41_clz.md R71). -/
def clzStage (w : Nat) (nv : Nat × Word) : Nat × Word :=
  if nv.2.extractLsb' (32 - w) w = 0 then (nv.1 + w, nv.2 <<< w) else nv

/-- `clz32`: the five-stage cascade over 16, 8, 4, 2 and 1 bits after the zero test (41_clz.md R71). -/
def clz32 (x : Word) : Nat :=
  if x = 0 then 32 else (clzStage 1 (clzStage 2 (clzStage 4 (clzStage 8 (clzStage 16 (0, x)))))).1

/-- Accept step of `CLZ`: nothing more than the common part (40_sequencer.md R63). -/
def acceptClz (a b : Word) (r : Regs) : Regs := acceptCommand 0 a b r

/-- The one run step of `CLZ` (41_clz.md R72). -/
def runClz (r : Regs) : Regs := complete (BitVec.ofNat 32 (clz32 r.xa)) 0 r

end Sys2Proof.Machine
end

