-- ==== Sys2Proof/Machine/Multiply.lean ====
section
/-! DEFINITION. `MULW` and `MUL`, the bit-serial multipliers, and the shared multiplier datapath
(42_multiply.md). -/

namespace Sys2Proof.Machine

/-- `mulw(a, b) = a * b`, the exact product as `u64` (42_multiply.md R76). -/
def mulw (a b : Word) : DWord := BitVec.ofNat 64 (a.toNat * b.toNat)

/-- `mul(a, b) = (a * b) mod 2^32` (42_multiply.md R77). -/
def mul (a b : Word) : Word := BitVec.ofNat 32 (a.toNat * b.toNat)

/-- `mul_init(u, v)`: load the multiplier datapath (42_multiply.md R78). -/
def mulInit (u v : Word) (r : Regs) : Regs :=
  { r with acc := 0, mcand := u.setWidth 64, mplier := v, cnt := 32 }

/-- `acc'`: the value `ACC` has after a `mul_step` (42_multiply.md R79). -/
def mulAcc (r : Regs) : DWord := if r.mplier.getLsbD 0 then r.acc + r.mcand else r.acc

/-- `mul_step`: one shift-and-add iteration (42_multiply.md R79). -/
def mulStep (r : Regs) : Regs :=
  { r with acc := mulAcc r, mcand := r.mcand <<< 1, mplier := r.mplier >>> 1, cnt := r.cnt - 1 }

/-- `last`: `CNT - 1 == 0`, the end-of-loop test of `mul_step` and `div_step` (42_multiply.md R79,
43_divide.md R93). -/
def lastIteration (r : Regs) : Bool := r.cnt - 1 == 0

/-- Accept step of `MULW` (40_sequencer.md R63; 42_multiply.md R80). -/
def acceptMulw (a b : Word) (r : Regs) : Regs := mulInit a b (acceptCommand 1 a b r)

/-- Accept step of `MUL` (40_sequencer.md R63; 42_multiply.md R81). -/
def acceptMul (a b : Word) (r : Regs) : Regs := mulInit a b (acceptCommand 2 a b r)

/-- Run step of `MULW` (42_multiply.md R80). -/
def runMulw (r : Regs) : Regs :=
  if lastIteration r then complete (loWord (mulAcc r)) (hiWord (mulAcc r)) (mulStep r) else mulStep r

/-- Run step of `MUL` (42_multiply.md R81). -/
def runMul (r : Regs) : Regs :=
  if lastIteration r then complete (loWord (mulAcc r)) 0 (mulStep r) else mulStep r

end Sys2Proof.Machine
end

