-- ==== Sys2Proof/Machine/Divide.lean ====
section
/-! DEFINITION. `DIVREM`, the bit-serial restoring divider (43_divide.md). -/

namespace Sys2Proof.Machine

/-- `divrem(a, b) = (a div b, a mod b)`, and `(0, 0)` for `b = 0` (43_divide.md R90, R91). -/
def divrem (a b : Word) : Word × Word :=
  if b = 0 then (0, 0) else (BitVec.ofNat 32 (a.toNat / b.toNat), BitVec.ofNat 32 (a.toNat % b.toNat))

/-- `div_init(a)` (43_divide.md R92). -/
def divInit (a : Word) (r : Regs) : Regs := { r with rem := 0, quo := 0, dvd := a, cnt := 32 }

/-- `t`: the remainder shifted left with the next dividend bit brought down (43_divide.md R93). -/
def divShifted (r : Regs) : Word := (r.rem <<< 1) ||| (BitVec.ofBool (r.dvd.getLsbD 31)).setWidth 32

/-- `take`: the remainder can absorb a nonzero divisor (43_divide.md R93). -/
def divTake (r : Regs) : Bool := r.xb != 0 && decide (r.xb ≤ divShifted r)

/-- `rem'` (43_divide.md R93). -/
def divRem (r : Regs) : Word := if divTake r then divShifted r - r.xb else divShifted r

/-- `quo'` (43_divide.md R93). -/
def divQuo (r : Regs) : Word := (r.quo <<< 1) ||| (BitVec.ofBool (divTake r)).setWidth 32

/-- `div_step`: one quotient bit (43_divide.md R93). -/
def divStep (r : Regs) : Regs :=
  { r with rem := divRem r, quo := divQuo r, dvd := r.dvd <<< 1, cnt := r.cnt - 1 }

/-- Accept step of `DIVREM` (40_sequencer.md R63; 43_divide.md R92, R94). -/
def acceptDivrem (a b : Word) (r : Regs) : Regs := divInit a (acceptCommand 3 a b r)

/-- Run step of `DIVREM`: the remainder is forced to 0 for a zero divisor (43_divide.md R94). -/
def runDivrem (r : Regs) : Regs :=
  if lastIteration r then complete (divQuo r) (if r.xb = 0 then 0 else divRem r) (divStep r) else divStep r

end Sys2Proof.Machine
end

