-- ==== Sys2Proof/Machine/Rsqrt.lean ====
section
/-! DEFINITION. `RSQRT`, the reciprocal-square-root estimator (44_rsqrt.md). -/

namespace Sys2Proof.Machine

/-- `e = 31 - clz32(x)`, the exponent of `x` and a legal ROM index (44_rsqrt.md R106). -/
def exponentOf (x : Word) : Fin 32 := ⟨31 - clz32 x, by omega⟩

/-- `frac`: the position of `x` within `[2^e, 2^(e+1))` as a 16-bit fraction, computed in 64 bits
(44_rsqrt.md R107). -/
def fractionOf (x : Word) : Word :=
  (((x.setWidth 64 - (1 : DWord) <<< (exponentOf x).val) <<< 16) >>> (exponentOf x).val).setWidth 32

/-- `delta = SEED[e] - SEEDX(e + 1)` (44_rsqrt.md R107). -/
def seedDelta (seed : SeedTable) (x : Word) : Word :=
  romRead seed (exponentOf x) - seedX seed ((exponentOf x).val + 1)

/-- The estimate Newton's method starts from: the seed, interpolated unless `x` is a power of two
(44_rsqrt.md R106, R107). -/
def initialEstimate (seed : SeedTable) (x : Word) : Word :=
  if 2 ^ (exponentOf x).val < x.toNat then
    romRead seed (exponentOf x) - mul (seedDelta seed x) (fractionOf x) >>> 16
  else romRead seed (exponentOf x)

/-- `y2`: the low word of `y * y` (44_rsqrt.md R104, R108). -/
def newtonSquare (y : Word) : Word := loWord (mulw y y)

/-- `t = (3 << 16) - xy2`, with `xy2` the rescaled product of `x` and `y2` (44_rsqrt.md R104, R108, R109). -/
def newtonFactor (x y2 : Word) : Word := Config.fixedThree - rescale16 (mulw x y2)

/-- `newton(x, y)`: one Newton iteration (44_rsqrt.md R104, R108). -/
def newton (x y : Word) : Word := rescale17 (mulw y (newtonFactor x (newtonSquare y)))

/-- `rsqrt(SEED, x)` (44_rsqrt.md R104). -/
def rsqrt (seed : SeedTable) (x : Word) : Word :=
  if x = 0 then Config.sentinel
  else if x = 1 then Config.fixedOne
  else newton x (newton x (initialEstimate seed x))

/-- Accept step of `RSQRT` (40_sequencer.md R63). -/
def acceptRsqrt (a b : Word) (r : Regs) : Regs := { acceptCommand 4 a b r with ph := 0, iter := false }

/-- Phase 0: special cases, exponent, ROM reads, interpolation set-up (44_rsqrt.md R110). -/
def rsqrtPhase0 (seed : SeedTable) (r : Regs) : Regs :=
  if r.xa = 0 then complete Config.sentinel 0 r
  else if r.xa = 1 then complete Config.fixedOne 0 r
  else if r.xa.toNat ≠ 2 ^ (exponentOf r.xa).val then
    { mulInit (seedDelta seed r.xa) (fractionOf r.xa) r with y := romRead seed (exponentOf r.xa), ph := 1 }
  else
    { mulInit (romRead seed (exponentOf r.xa)) (romRead seed (exponentOf r.xa)) r with
      y := romRead seed (exponentOf r.xa), ph := 2 }

/-- Phase 1: the interpolation product; its last step starts the square (44_rsqrt.md R111). -/
def rsqrtPhase1 (r : Regs) : Regs :=
  if lastIteration r then
    let y1 := r.y - loWord (mulAcc r) >>> 16
    { mulInit y1 y1 (mulStep r) with y := y1, ph := 2 }
  else mulStep r

/-- Phase 2: the square `y * y`; its last step starts `x * y2` (44_rsqrt.md R112). -/
def rsqrtPhase2 (r : Regs) : Regs :=
  if lastIteration r then
    let y2 := loWord (mulAcc r)
    { mulInit r.xa y2 (mulStep r) with t := y2, ph := 3 }
  else mulStep r

/-- Phase 3: the product `x * y2`; its last step starts `y * t` (44_rsqrt.md R113). -/
def rsqrtPhase3 (r : Regs) : Regs :=
  if lastIteration r then
    let t := Config.fixedThree - rescale16 (mulAcc r)
    { mulInit r.y t (mulStep r) with t := t, ph := 4 }
  else mulStep r

/-- Phase 4: the product `y * t`; its last step ends a Newton iteration, the first by starting the second,
the second by completing (44_rsqrt.md R114). -/
def rsqrtPhase4 (r : Regs) : Regs :=
  if lastIteration r then
    let ynew := rescale17 (mulAcc r)
    if r.iter then complete ynew 0 { mulStep r with y := ynew }
    else { mulInit ynew ynew (mulStep r) with y := ynew, iter := true, ph := 2 }
  else mulStep r

/-- Run step of `RSQRT`, selected by `PH` (40_sequencer.md R65; 44_rsqrt.md R110 to R114). `PH` is never
above 4 in a reachable state (10_state.md R32); there the step changes nothing (assumption 5). -/
def runRsqrt (seed : SeedTable) (r : Regs) : Regs :=
  if r.ph = 0 then rsqrtPhase0 seed r
  else if r.ph = 1 then rsqrtPhase1 r
  else if r.ph = 2 then rsqrtPhase2 r
  else if r.ph = 3 then rsqrtPhase3 r
  else if r.ph = 4 then rsqrtPhase4 r
  else r

end Sys2Proof.Machine
end

