-- ==== Sys2Proof/Machine/Sequencer.lean ====
section
/-! DEFINITION. The sequencing of commands (40_sequencer.md): which run step is taken, what an offered
command does, what an edge without one does; and, over these, the meaning of each instruction. -/

namespace Sys2Proof.Machine

/-- The command in the registers `OPR`, `XA`, `XB`: the one in execution, or the last accepted
(10_state.md R21, R24). -/
def Regs.command (r : Regs) : Option Instr :=
  match decodeCommand r.opr r.xa r.xb with
  | .ok i => some i
  | .error _ => none

/-- `run(SEED, s)`: one micro-step of the operation in `OPR` (40_sequencer.md R65). With `OPR >= 5`, which no
reachable state has, nothing changes, as R65 allows (assumption 6). -/
def run (seed : SeedTable) (r : Regs) : Regs :=
  match r.command with
  | some (.clz _ _) => runClz r
  | some (.mulw _ _) => runMulw r
  | some (.mul _ _) => runMul r
  | some (.divrem _ _) => runDivrem r
  | some (.rsqrt _ _) => runRsqrt seed r
  | none => r

/-- An edge at which a legal command is offered: a busy block takes its run step and the command is lost
(40_sequencer.md R67); an idle block accepts it (R63). -/
def offerCommand (accept : Regs → Regs) (s : State) : Host.Outcome State Fault Refusal :=
  .next (s.withRegs (if s.regs.busy then run s.seed s.regs else accept s.regs))

/-- An edge at which no legal command is offered: a busy block takes its run step (40_sequencer.md R65), an
idle one changes nothing (R64; 30_encoding.md R55). -/
def unofferedStep (s : State) : State :=
  s.withRegs (if s.regs.busy then run s.seed s.regs else s.regs)

/-- `CLZ a` offered at this edge (41_clz.md R72). -/
def execClz (a b : Word) (s : State) : Host.Outcome State Fault Refusal := offerCommand (acceptClz a b) s

/-- `MULW a, b` offered at this edge (42_multiply.md R80). -/
def execMulw (a b : Word) (s : State) : Host.Outcome State Fault Refusal := offerCommand (acceptMulw a b) s

/-- `MUL a, b` offered at this edge (42_multiply.md R81). -/
def execMul (a b : Word) (s : State) : Host.Outcome State Fault Refusal := offerCommand (acceptMul a b) s

/-- `DIVREM a, b` offered at this edge (43_divide.md R94). -/
def execDivrem (a b : Word) (s : State) : Host.Outcome State Fault Refusal := offerCommand (acceptDivrem a b) s

/-- `RSQRT a` offered at this edge (44_rsqrt.md R110). -/
def execRsqrt (a b : Word) (s : State) : Host.Outcome State Fault Refusal := offerCommand (acceptRsqrt a b) s

end Sys2Proof.Machine
end

