-- ==== Sys2Proof/Machine/Dispatch.lean ====
section
/-! DEFINITION. One arm per instruction. -/

namespace Sys2Proof.Machine

def exec (i : Instr) (s : State) : Host.Outcome State Fault Refusal :=
  match i with
  | .clz a b => Sys2Proof.Machine.execClz a b s
  | .mulw a b => Sys2Proof.Machine.execMulw a b s
  | .mul a b => Sys2Proof.Machine.execMul a b s
  | .divrem a b => Sys2Proof.Machine.execDivrem a b s
  | .rsqrt a b => Sys2Proof.Machine.execRsqrt a b s

end Sys2Proof.Machine
end

