-- ==== Sys2Proof/Machine/Step.lean ====
section
/-! DEFINITION. One step of the machine: one rising edge of `clk` (40_sequencer.md R61). -/

namespace Sys2Proof.Machine

/-- `Step(SEED, s, in)`: reset wins (70_reset_and_hazards.md R140; 60_exceptions.md R123); else a legal
command that is offered is executed (40_sequencer.md R63, R67); else the block runs or idles (R64, R65). -/
def step (s : State) : Host.Outcome State Fault Refusal :=
  if s.ports.rst then .next (resetStep s.sampled)
  else
    match s.ports.offered with
    | some i => exec i s.sampled
    | none => .next (unofferedStep s.sampled)

/-- `s` with the command of these bits standing on the ports at the next edge, and the block ready to accept
it (assumption 8). -/
def State.withFetchWord (s : State) (nbits w : Nat) : State :=
  { s.drive (offerWord nbits w) with regs := { s.regs with busy := false } }

end Sys2Proof.Machine
end

