-- ==== Sys2Proof/Machine/FunctionLevel.lean ====
section
/-! DEFINITION. The function level (00_scope.md R5): the result and the number of run steps of each command
as total functions of the command and of `SEED`. -/

namespace Sys2Proof.Machine

/-- `Result(SEED, op, a, b)`, what a command leaves in `(R0, R1)` (40_sequencer.md R68; 30_encoding.md R54). -/
def result (seed : SeedTable) : Instr → Word × Word
  | .clz a _ => (BitVec.ofNat 32 (clz32 a), 0)
  | .mulw a b => (loWord (mulw a b), hiWord (mulw a b))
  | .mul a b => (mul a b, 0)
  | .divrem a b => divrem a b
  | .rsqrt a _ => (rsqrt seed a, 0)

/-- `LAT(op, a)`: run steps after the accept step (70_reset_and_hazards.md R146; 44_rsqrt.md R119). -/
def latency : Instr → Nat
  | .clz _ _ => 1
  | .mulw _ _ => 32
  | .mul _ _ => 32
  | .divrem _ _ => 32
  | .rsqrt a _ => if a.toNat ≤ 1 then 1 else if a.toNat = 2 ^ (exponentOf a).val then 193 else 225

/-- Run steps still to come before the command in execution completes: the rest of the current serial loop
and 32 for each phase after it (44_rsqrt.md R119). -/
def Regs.remaining (r : Regs) : Nat :=
  if r.busy then
    match r.command with
    | some (.clz _ _) => 1
    | some (.mulw _ _) => r.cnt.toNat
    | some (.mul _ _) => r.cnt.toNat
    | some (.divrem _ _) => r.cnt.toNat
    | some (.rsqrt a b) =>
      if r.ph = 0 then latency (.rsqrt a b)
      else if r.ph = 1 then r.cnt.toNat + 192
      else r.cnt.toNat + 32 * (4 - r.ph.toNat) + (if r.iter then 0 else 96)
    | none => 0
  else 0

end Sys2Proof.Machine
end

