-- ==== Sys2Proof/Machine/Script.lean ====
section
/-! DEFINITION. The command-script notation (30_encoding.md R58, R59): every line a user may write, and its
expansion into the primitive lines of `ScriptLine`. -/

namespace Sys2Proof.Machine

/-- The five mnemonic lines, with the operands the notation writes (30_encoding.md R58). -/
inductive CommandLine where
  | clz (a : Word)
  | mulw (a b : Word)
  | mul (a b : Word)
  | divrem (a b : Word)
  | rsqrt (a : Word)
  deriving DecidableEq, Repr

/-- A line of a command script (30_encoding.md R58) or a pseudo-command (R59). -/
inductive SourceLine where
  | stepLine (rst start : Bool) (op : OpCode) (a b : Word)
  | reset
  | idle (n : Nat)
  | command (c : CommandLine)
  | wait
  | nop
  | div (a b : Word)
  | mod (a b : Word)
  | sqr (a : Word)
  /-- `<mnemonic>! operands`. -/
  | bang (c : CommandLine)
  deriving DecidableEq, Repr

/-- The command a mnemonic line offers; `CLZ` and `RSQRT` drive 0 on `b` (30_encoding.md R58). -/
def CommandLine.instr : CommandLine → Instr
  | .clz a => .clz a 0
  | .mulw a b => .mulw a b
  | .mul a b => .mul a b
  | .divrem a b => .divrem a b
  | .rsqrt a => .rsqrt a 0

/-- The one step of a mnemonic line (30_encoding.md R58). -/
def CommandLine.line (c : CommandLine) : ScriptLine := .step (Input.offer c.instr)

/-- What a line stands for (30_encoding.md R58, R59). -/
def SourceLine.expand : SourceLine → List ScriptLine
  | .stepLine rst start op a b => [.step ⟨rst, start, op, a, b⟩]
  | .reset => [.step Input.reset]
  | .idle n => [.idle n]
  | .command c => [c.line]
  | .wait => [.wait]
  | .nop => [.idle 1]
  | .div a b => [(CommandLine.divrem a b).line, .wait]
  | .mod a b => [(CommandLine.divrem a b).line, .wait]
  | .sqr a => [(CommandLine.mulw a a).line, .wait]
  | .bang c => [c.line, .wait]

/-- A whole script, expanded line by line. -/
def assemble (lines : List SourceLine) : List ScriptLine := lines.flatMap SourceLine.expand

/-- What a user reads when a pseudo-command is over (the column "result to read" of 30_encoding.md R59). -/
inductive Reading where
  | nothing
  | word (w : Word)
  | dword (d : DWord)
  | pair (r0 r1 : Word)
  deriving DecidableEq, Repr

/-- The result to read after a line: `r0` for `DIV`, `r1` for `MOD`, `[r1, r0]` as one number for `SQR`, both
registers for `<mnemonic>!` (30_encoding.md R59). -/
def SourceLine.reading (o : Observation) : SourceLine → Reading
  | .div _ _ => .word o.r0
  | .mod _ _ => .word o.r1
  | .sqr _ => .dword (o.r1 ++ o.r0)
  | .bang _ => .pair o.r0 o.r1
  | .stepLine _ _ _ _ _ => .nothing
  | .reset => .nothing
  | .idle _ => .nothing
  | .command _ => .nothing
  | .wait => .nothing
  | .nop => .nothing

/-- The machine with a script to apply: how a program is given to the block (assumption 9). -/
def State.withScript (s : State) (lines : List SourceLine) : State := { s with script := assemble lines }

end Sys2Proof.Machine
end

