-- ==== Sys2Proof/Safety.lean ====
section
/-! DEFINITION. What claims are stated in terms of: the invariants of 10_state.md R32, the requirements on
the seed table (20_memory.md R40), and when two states look the same to a user (10_state.md R30). -/

namespace Sys2Proof.Machine

/-- Items 1 and 2 of 10_state.md R32: the flags exclude one another and the control registers are in range. -/
abbrev Regs.inRange (r : Regs) : Prop :=
  ¬(r.busy = true ∧ r.done = true) ∧ r.opr.toNat ≤ 4 ∧ r.ph.toNat ≤ 4 ∧ r.cnt.toNat ≤ 32

/-- A serial loop is under way: `1 <= CNT <= 32` (10_state.md R32 items 3 and 4). -/
abbrev Regs.looping (r : Regs) : Prop := 1 ≤ r.cnt.toNat ∧ r.cnt.toNat ≤ 32

/-- The multiplier's loop invariant for the product of `u` and `v`, with `k = 32 - CNT` iterations done
(42_multiply.md R82; 10_state.md R32 item 3). -/
abbrev Regs.multiplying (u v : Word) (r : Regs) : Prop :=
  r.acc.toNat = u.toNat * (v.toNat % 2 ^ (32 - r.cnt.toNat)) ∧
  r.mcand.toNat = u.toNat * 2 ^ (32 - r.cnt.toNat) % 2 ^ 64 ∧
  r.mplier = v >>> (32 - r.cnt.toNat)

/-- The divider's loop invariant, with `p = XA >> CNT` the dividend bits consumed (43_divide.md R95;
10_state.md R32 item 4). -/
abbrev Regs.dividing (r : Regs) : Prop :=
  r.dvd = r.xa <<< (32 - r.cnt.toNat) ∧
  (r.xb ≠ 0 → r.quo.toNat = r.xa.toNat / 2 ^ r.cnt.toNat / r.xb.toNat ∧
    r.rem.toNat = r.xa.toNat / 2 ^ r.cnt.toNat % r.xb.toNat ∧ r.rem.toNat < r.xb.toNat) ∧
  (r.xb = 0 → r.quo = 0 ∧ r.rem.toNat = r.xa.toNat / 2 ^ r.cnt.toNat) ∧
  r.rem.toNat < 2 ^ (32 - r.cnt.toNat)

/-- The estimate `Y` that the current Newton iteration started from (44_rsqrt.md R104). -/
def estimateIn (seed : SeedTable) (r : Regs) : Word :=
  if r.iter then newton r.xa (initialEstimate seed r.xa) else initialEstimate seed r.xa

/-- The estimator in each phase: what `Y` and `T` hold and which product is being formed
(44_rsqrt.md R110 to R114; 10_state.md R28). -/
abbrev Regs.estimating (seed : SeedTable) (r : Regs) : Prop :=
  (r.ph = 0 → r.iter = false) ∧
  (r.ph ≠ 0 → 2 ≤ r.xa.toNat ∧ r.looping) ∧
  (r.ph = 1 → r.iter = false ∧ 2 ^ (exponentOf r.xa).val < r.xa.toNat ∧
    r.y = romRead seed (exponentOf r.xa) ∧ r.multiplying (seedDelta seed r.xa) (fractionOf r.xa)) ∧
  (r.ph = 2 → r.y = estimateIn seed r ∧ r.multiplying r.y r.y) ∧
  (r.ph = 3 → r.y = estimateIn seed r ∧ r.t = newtonSquare r.y ∧ r.multiplying r.xa r.t) ∧
  (r.ph = 4 → r.y = estimateIn seed r ∧ r.t = newtonFactor r.xa (newtonSquare r.y) ∧ r.multiplying r.y r.t)

/-- The whole invariant of 10_state.md R32: ranges, the two serial loops, the estimator's phases, and (item 6)
that while `DONE == 1` the result registers hold the function-level result of the last accepted command. -/
abbrev Regs.wellRun (seed : SeedTable) (r : Regs) : Prop :=
  r.inRange ∧
  (r.busy = true → r.opr = 1 ∨ r.opr = 2 → r.looping ∧ r.multiplying r.xa r.xb) ∧
  (r.busy = true → r.opr = 3 → r.looping ∧ r.dividing) ∧
  (r.busy = true → r.opr = 4 → r.estimating seed) ∧
  (r.done = true → r.command.map (result seed) = some (r.r0, r.r1))

/-- The invariant of a state (10_state.md R32). -/
abbrev State.wellRun (s : State) : Prop := s.regs.wellRun s.seed

/-- `accept(s, in)` as 40_sequencer.md R63 writes it: one rule for all operations, with `in.op <= 4`. -/
def acceptedBy (inp : Input) (r : Regs) : Regs :=
  let r1 := { r with opr := inp.op, xa := inp.a, xb := inp.b, busy := true, done := false }
  if inp.op = 1 ∨ inp.op = 2 then
    { r1 with acc := 0, mcand := inp.a.setWidth 64, mplier := inp.b, cnt := 32 }
  else if inp.op = 3 then { r1 with rem := 0, quo := 0, dvd := inp.a, cnt := 32 }
  else if inp.op = 4 then { r1 with ph := 0, iter := false }
  else r1

/-- The requirements on a seed table (20_memory.md R40). Items 3 to 6: non-increasing, the two values the
source implies, every entry reproduced at its power of two, and the size bound. Item 1 is the type; item 2
has no stated bound. -/
abbrev meetsSeedRequirements (seed : SeedTable) : Prop :=
  (∀ i : Fin 31, seedX seed (i.val + 1) ≤ seedX seed i.val) ∧
  seedX seed 2 = 32768 ∧ seedX seed 4 = 16384 ∧
  (∀ i : Fin 31, rsqrt seed ((1 : Word) <<< (i.val + 1)) = seedX seed (i.val + 1)) ∧
  (∀ i : Fin 31, (seedX seed (i.val + 1)).toNat < 65536) ∧ (seedX seed 0).toNat ≤ 65536

/-- `k` steps of the machine give this state: the machine stops on no path, so there always is one
(40_sequencer.md R61). -/
abbrev State.reaches (s : State) (k : Nat) (t : State) : Prop := Host.Core.run Sys2Proof.core k s = .next t

/-- Inputs that do not reset the block, as script lines (40_sequencer.md R68). -/
def steps (ins : List Input) : List ScriptLine := ins.map ScriptLine.step

/-- Two states that differ only in hidden registers (10_state.md R30): the same outputs, ROM and inputs. -/
abbrev State.looksLike (s1 s2 : State) : Prop :=
  s1.observe = s2.observe ∧ s1.seed = s2.seed ∧ s1.script = s2.script ∧ s1.envTick = s2.envTick

end Sys2Proof.Machine
end

