-- ==== Sys2Proof/WellFormed.lean ====
section
/-! DEFINITION. Which instructions and which script lines are well formed. Every value of `a` and `b` is
legal for every operation (30_encoding.md R56), so every `Instr` is; the one thing a user must not write is
a step that offers a reserved operation code (70_reset_and_hazards.md R147; 93_implementation_defined.md U1). -/

namespace Sys2Proof

/-- An instruction is well formed when its operation code is one of the five legal ones
(30_encoding.md R52, R56: the operands are free). -/
def Instr.wellFormed (i : Instr) : Bool := decide (i.op.toNat ≤ 4)

/-- The inputs of one step are admitted when they do not offer a reserved code. Under `rst` the other
inputs are not read (70_reset_and_hazards.md R140). -/
def Machine.Input.admitted (inp : Machine.Input) : Bool :=
  inp.rst || !inp.start || decide (inp.op.toNat ≤ 4)

/-- The script checker of 93_implementation_defined.md U1: a property of the script, never a state of the
block. -/
def Machine.ScriptLine.admitted : Machine.ScriptLine → Bool
  | .step inp => inp.admitted
  | .idle _ => true
  | .wait => true

/-- A script is admitted when each of its lines is. -/
def scriptAdmitted (script : List Machine.ScriptLine) : Bool := script.all Machine.ScriptLine.admitted

end Sys2Proof
end

