-- ==== Sys2Proof/Certificates/Slice0/Obligations.lean ====
section
/-! DEFINITION. The statements about HW2CORE for the provers. Rules are those of `spec/`. -/

open Sys2Proof Sys2Proof.Machine

/-! ### Encoding -/

/-- 30_encoding.md R50 to R53: no operand bit of any instruction is lost between encoder and decoder. -/
def Obligations.DecodeOfEncode : Prop := ∀ i : Instr, decode (encode i) = .ok i

/-- 30_encoding.md R51, R52, R55: the command word read as a number is `op * 2^64 + b * 2^32 + a`, and the
decoder answers the operation code map on it, naming a reserved code; what it accepts encodes back to the
same word. -/
def Obligations.DecodeIsTheOpcodeMap : Prop :=
  ∀ (w : CommandWord) (op : OpCode) (a b : Word),
    w.toNat = op.toNat * 2 ^ 64 + b.toNat * 2 ^ 32 + a.toNat →
    decode w =
      (if op = 0 then .ok (.clz a b)
       else if op = 1 then .ok (.mulw a b)
       else if op = 2 then .ok (.mul a b)
       else if op = 3 then .ok (.divrem a b)
       else if op = 4 then .ok (.rsqrt a b)
       else .error (.reservedOp op)) ∧
    ∀ i, decode w = .ok i → encode i = w

/-- 30_encoding.md R51, R52: one word of each operation, and the three reserved codes, as the opcode table
numbers their bits. -/
def Obligations.WrittenWordsDecode : Prop :=
  decodeTableWord 72 0x0_DEADBEEF_00010000 = some (.clz 0x00010000 0xDEADBEEF) ∧
  decodeTableWord 72 0x1_00000005_00000003 = some (.mulw 3 5) ∧
  decodeTableWord 72 0x2_00000007_0000000E = some (.mul 14 7) ∧
  decodeTableWord 72 0x3_00000007_00000064 = some (.divrem 100 7) ∧
  decodeTableWord 72 0x4_00000000_FFFFFFFF = some (.rsqrt 0xFFFFFFFF 0) ∧
  decodeTableWord 72 0x5_00005678_00001234 = none ∧
  decodeTableWord 72 0x6_00000001_00000001 = none ∧
  decodeTableWord 72 0x7_00000001_00000001 = none

/-! ### The step -/

/-- A step runs the decoded instruction: with no reset and a well-formed command on the ports, `step` is `exec`
of it, once the inputs are sampled, which changes no register and not the ROM (40_sequencer.md R61). -/
def Obligations.StepRunsTheOfferedCommand : Prop :=
  (∀ (s : State) (i : Instr), s.ports.rst = false → s.ports.start = true →
    decodeCommand s.ports.op s.ports.a s.ports.b = .ok i → i.wellFormed = true →
    step s = exec i s.sampled ∧ s.sampled.regs = s.regs ∧ s.sampled.seed = s.seed) ∧
  (∀ (s : State) (i : Instr), step (s.drive (Input.offer i)) = exec i s)

/-- The model's way of placing a command (assumption 8): the very next step runs it from an idle block. -/
def Obligations.PlacedWordRunsNext : Prop :=
  ∀ (s : State) (nbits w : Nat) (i : Instr), decodeTableWord nbits w = some i →
    step (s.withFetchWord nbits w) = exec i { s with regs := { s.regs with busy := false } }

/-- 40_sequencer.md R61: the step is the cascade reset, accept, idle, run, for every state and all inputs, with
one outcome, a next state; and only the `RSQRT` arm of the run step reads the ROM. -/
def Obligations.StepIsTheCascade : Prop :=
  (∀ (s : State) (inp : Input),
    step (s.drive inp) = .next (s.withRegs
      (if inp.rst = true then Regs.reset
       else if s.regs.busy = false then
         (if inp.start = true ∧ inp.op.toNat ≤ 4 then acceptedBy inp s.regs else s.regs)
       else run s.seed s.regs))) ∧
  (∀ (r : Regs) (seed seed' : SeedTable), r.opr ≠ 4 → run seed r = run seed' r)

/-- 40_sequencer.md R63: the accept step of each of the five operations, every register said. -/
def Obligations.ExecAcceptsWhenIdle : Prop :=
  ∀ (i : Instr) (s : State), s.regs.busy = false →
    exec i s = .next (s.withRegs (acceptedBy (Input.offer i) s.regs)) ∧
    (acceptedBy (Input.offer i) s.regs).observe = ⟨true, false, s.regs.r0, s.regs.r1⟩

/-- 40_sequencer.md R64: any number of edges that offer no legal command leave an idle block as it is. -/
def Obligations.IdleStepsChangeNothing : Prop :=
  ∀ (s : State) (ins : List Input), s.regs.busy = false →
    (∀ inp ∈ ins, inp.rst = false ∧ (inp.start = false ∨ 5 ≤ inp.op.toNat)) →
    State.reaches { s with script := steps ins } ins.length { s with script := [] }

/-- 30_encoding.md R55 and 70_reset_and_hazards.md R147: a reserved code accepts nothing and changes nothing, as
if `start` were 0; a `WAIT` after it never ends when `DONE == 0`, and ends at once on the stale results when
`DONE == 1`. -/
def Obligations.ReservedCodeIsIgnored : Prop :=
  ∀ (s : State) (op : OpCode) (a b : Word), s.regs.busy = false → 5 ≤ op.toNat →
    step (s.drive ⟨false, true, op, a, b⟩) = .next s ∧
    step (s.drive ⟨false, true, op, a, b⟩) = step (s.drive ⟨false, false, op, a, b⟩) ∧
    (s.regs.done = false → ∀ k : Nat,
      State.reaches { s with script := [.step ⟨false, true, op, a, b⟩, .wait] } (k + 1)
        { s with script := [.wait] }) ∧
    (s.regs.done = true →
      State.reaches { s with script := [.step ⟨false, true, op, a, b⟩, .wait] } 1 { s with script := [.wait] } ∧
      nextInput s.regs.done [.wait] = none)

/-- 10_state.md R31 and 70_reset_and_hazards.md R142: after a step with `rst = 1`, from any state and whatever
else stands on the ports, every register is 0, the outputs are 0 and the ROM is as before. The reset state of
the model has the same registers. -/
def Obligations.ResetClearsEveryRegister : Prop :=
  (∀ (s : State) (inp : Input), inp.rst = true →
    ∃ t, step (s.drive inp) = .next t ∧ t.seed = s.seed ∧ t.observe = ⟨false, false, 0, 0⟩ ∧
      t.regs = ⟨false, false, 0, 0, false, 0, 0, 0, 0, 0, 0, 0, 0, 0, 0, 0, 0, 0⟩) ∧
  State.reset.regs = ⟨false, false, 0, 0, false, 0, 0, 0, 0, 0, 0, 0, 0, 0, 0, 0, 0, 0⟩

/-- 70_reset_and_hazards.md R141: a command abandoned by a reset step never completes; until another one is
offered every register stays 0, so `DONE` does not rise and no result is shown. -/
def Obligations.AbandonedCommandNeverCompletes : Prop :=
  ∀ (s : State) (inp : Input) (ins : List Input) (k : Nat), s.regs.busy = true → inp.rst = true →
    (∀ j ∈ ins, j.rst = true ∨ j.start = false) → k ≤ ins.length →
    ∃ t, State.reaches { s with script := steps (inp :: ins) } (k + 1) t ∧ t.regs = Regs.reset

/-- 40_sequencer.md R67: while `BUSY == 1` only `rst` is read; the operands stay latched; right after a
completion the ports are read again and an offered command is accepted. -/
def Obligations.RunningBlockIgnoresItsInputs : Prop :=
  ∀ (s : State) (inp : Input), s.regs.busy = true → inp.rst = false →
    (∀ inp' : Input, inp'.rst = false → step (s.drive inp) = step (s.drive inp')) ∧
    (∀ inp' : Input, inp'.rst = true → step (s.drive inp') = .next (s.withRegs Regs.reset)) ∧
    ∃ t, step (s.drive inp) = .next t ∧
      t.regs.xa = s.regs.xa ∧ t.regs.xb = s.regs.xb ∧ t.regs.opr = s.regs.opr ∧
      (t.regs.busy = false → ∀ i : Instr,
        step (t.drive (Input.offer i)) = .next (t.withRegs (acceptedBy (Input.offer i) t.regs)))

/-- Past the script's end the step is that of whatever the environment drives: the model's free value
(assumption 4; 40_sequencer.md R62). -/
def Obligations.PastTheScriptInputsAreFree : Prop :=
  ∀ s : State, s.script = [] →
    step s = step (State.drive { s with envTick := s.envTick + 1 } (Config.envInput s.envTick))

/-- 93_implementation_defined.md U1, 30_encoding.md R55: the script checker admits exactly the steps that do not
offer a reserved code, and an admitted offer is a well-formed command. -/
def Obligations.AdmittedOfferIsACommand : Prop :=
  ∀ inp : Input, inp.rst = false → inp.start = true →
    (inp.admitted = true → ∃ i : Instr, inp.offered = some i ∧ i.wellFormed = true ∧ inp = Input.offer i) ∧
    (inp.admitted = false → inp.offered = none ∧ 5 ≤ inp.op.toNat)

/-! ### Run steps, by instruction -/

/-- 41_clz.md R72: `CLZ` completes in its run step. -/
def Obligations.ClzRunStepCompletes : Prop :=
  ∀ (a b : Word) (s : State), s.regs.busy = true → s.regs.opr = 0 →
    exec (.clz a b) s = .next (s.withRegs
      { s.regs with r0 := BitVec.ofNat 32 (clz32 s.regs.xa), r1 := 0, busy := false, done := true })

/-- 42_multiply.md R79 to R81: one shift-and-add iteration of `MULW` and of `MUL`, every register said, and
the completion in the iteration that ends the count. -/
def Obligations.MultiplyRunStep : Prop :=
  ∀ (a b : Word) (s : State), s.regs.busy = true →
    let acc' : DWord := if s.regs.mplier.toNat % 2 = 1 then s.regs.acc + s.regs.mcand else s.regs.acc
    let r' : Regs := { s.regs with acc := acc', mcand := s.regs.mcand <<< 1, mplier := s.regs.mplier >>> 1,
                                   cnt := s.regs.cnt - 1 }
    (s.regs.opr = 1 → exec (.mulw a b) s = .next (s.withRegs
      (if s.regs.cnt = 1 then { r' with r0 := acc'.extractLsb' 0 32, r1 := acc'.extractLsb' 32 32,
                                        busy := false, done := true } else r'))) ∧
    (s.regs.opr = 2 → exec (.mul a b) s = .next (s.withRegs
      (if s.regs.cnt = 1 then { r' with r0 := acc'.extractLsb' 0 32, r1 := 0,
                                        busy := false, done := true } else r')))

/-- 42_multiply.md R80 to R82: the last iteration of a loop that keeps its invariant leaves the exact product of
the latched operands in `(R1, R0)` for `MULW`, its low word for `MUL`, and touches nothing else. -/
def Obligations.MultiplyCompletesWithTheProduct : Prop :=
  ∀ (a b : Word) (s : State), s.regs.busy = true → s.regs.cnt = 1 → s.regs.multiplying s.regs.xa s.regs.xb →
    let r' : Regs := { s.regs with acc := mulw s.regs.xa s.regs.xb,
                                   mcand := BitVec.ofNat 64 (s.regs.xa.toNat * 2 ^ 32), mplier := 0, cnt := 0,
                                   busy := false, done := true }
    (s.regs.opr = 1 → ∃ lo hi : Word,
      exec (.mulw a b) s = .next (s.withRegs { r' with r0 := lo, r1 := hi }) ∧
      hi.toNat * 2 ^ 32 + lo.toNat = s.regs.xa.toNat * s.regs.xb.toNat) ∧
    (s.regs.opr = 2 → ∃ lo : Word,
      exec (.mul a b) s = .next (s.withRegs { r' with r0 := lo, r1 := 0 }) ∧
      lo.toNat = s.regs.xa.toNat * s.regs.xb.toNat % 2 ^ 32)

/-- 43_divide.md R93, R94: one step of the restoring division, every register said, and the completion in the
step that ends the count, with the remainder forced to 0 for a zero divisor. Numbers, not bits. -/
def Obligations.DivremRunStep : Prop :=
  ∀ (a b : Word) (s : State), s.regs.busy = true → s.regs.opr = 3 →
    ∃ (rem' quo' : Word),
      (let t := 2 * s.regs.rem.toNat % 2 ^ 32 + s.regs.dvd.toNat / 2 ^ 31
       let take := s.regs.xb.toNat ≠ 0 ∧ s.regs.xb.toNat ≤ t
       (take → rem'.toNat = t - s.regs.xb.toNat ∧ quo'.toNat = 2 * s.regs.quo.toNat % 2 ^ 32 + 1) ∧
       (¬take → rem'.toNat = t ∧ quo'.toNat = 2 * s.regs.quo.toNat % 2 ^ 32)) ∧
      (let r' : Regs := { s.regs with rem := rem', quo := quo', dvd := s.regs.dvd <<< 1, cnt := s.regs.cnt - 1 }
       exec (.divrem a b) s = .next (s.withRegs
        (if s.regs.cnt = 1 then { r' with r0 := quo', r1 := if s.regs.xb = 0 then 0 else rem',
                                          busy := false, done := true } else r')))

/-- 43_divide.md R94, R95: the last step of a division that keeps its invariant leaves the quotient and the
remainder of the latched operands, `(0, 0)` for a zero divisor. -/
def Obligations.DivremCompletesWithTheQuotient : Prop :=
  ∀ (a b : Word) (s : State), s.regs.busy = true → s.regs.opr = 3 → s.regs.cnt = 1 → s.regs.dividing →
    ∃ t, exec (.divrem a b) s = .next t ∧ (t.regs.r0, t.regs.r1) = divrem s.regs.xa s.regs.xb ∧
      t = s.withRegs { s.regs with
        rem := BitVec.ofNat 32 (if s.regs.xb = 0 then s.regs.xa.toNat else s.regs.xa.toNat % s.regs.xb.toNat),
        quo := t.regs.r0, dvd := 0, cnt := 0, r0 := t.regs.r0, r1 := t.regs.r1, busy := false, done := true }

/-- 44_rsqrt.md R110: phase 0 of `RSQRT`, every register said. -/
def Obligations.RsqrtPhase0Step : Prop :=
  ∀ (a b : Word) (s : State), s.regs.busy = true → s.regs.opr = 4 → s.regs.ph = 0 →
    let e := 31 - clz32 s.regs.xa
    (s.regs.xa = 0 → exec (.rsqrt a b) s = .next (s.withRegs
      { s.regs with r0 := 0xFFFFFFFF, r1 := 0, busy := false, done := true })) ∧
    (s.regs.xa = 1 → exec (.rsqrt a b) s = .next (s.withRegs
      { s.regs with r0 := 0x00010000, r1 := 0, busy := false, done := true })) ∧
    (2 ≤ s.regs.xa.toNat → s.regs.xa.toNat ≠ 2 ^ e → exec (.rsqrt a b) s = .next (s.withRegs
      { s.regs with
        y := seedX s.seed e, ph := 1, acc := 0,
        mcand := (seedX s.seed e - seedX s.seed (e + 1)).setWidth 64,
        mplier := BitVec.ofNat 32 ((s.regs.xa.toNat - 2 ^ e) * 2 ^ 16 / 2 ^ e), cnt := 32 })) ∧
    (2 ≤ s.regs.xa.toNat → s.regs.xa.toNat = 2 ^ e → exec (.rsqrt a b) s = .next (s.withRegs
      { s.regs with
        y := seedX s.seed e, ph := 2, acc := 0, mcand := (seedX s.seed e).setWidth 64,
        mplier := seedX s.seed e, cnt := 32 }))

/-- 44_rsqrt.md R111 to R114 in the steps before a phase's last: `mul_step` and nothing more. -/
def Obligations.RsqrtPhaseInnerStep : Prop :=
  ∀ (a b : Word) (s : State), s.regs.busy = true → s.regs.opr = 4 →
    s.regs.ph = 1 ∨ s.regs.ph = 2 ∨ s.regs.ph = 3 ∨ s.regs.ph = 4 → s.regs.cnt ≠ 1 →
    exec (.rsqrt a b) s = .next (s.withRegs
      { s.regs with
        acc := if s.regs.mplier.toNat % 2 = 1 then s.regs.acc + s.regs.mcand else s.regs.acc,
        mcand := s.regs.mcand <<< 1, mplier := s.regs.mplier >>> 1, cnt := s.regs.cnt - 1 })

/-- 44_rsqrt.md R111 to R114: the closing action of each product phase, when the product of `u` and `v` is the
one being formed (42_multiply.md R82): what goes to `Y` and `T`, which product comes next, and the completion. -/
def Obligations.RsqrtPhaseClosingStep : Prop :=
  ∀ (a b u v : Word) (s : State), s.regs.busy = true → s.regs.opr = 4 → s.regs.cnt = 1 →
    s.regs.multiplying u v →
    let p := u.toNat * v.toNat
    let y1 : Word := s.regs.y - BitVec.ofNat 32 (p % 2 ^ 32 / 2 ^ 16)
    let y2 : Word := BitVec.ofNat 32 p
    let t' : Word := 0x00030000 - BitVec.ofNat 32 (p / 2 ^ 16)
    let ynew : Word := BitVec.ofNat 32 (p / 2 ^ 17)
    (s.regs.ph = 1 → exec (.rsqrt a b) s = .next (s.withRegs
      { s.regs with y := y1, ph := 2, acc := 0, mcand := y1.setWidth 64, mplier := y1, cnt := 32 })) ∧
    (s.regs.ph = 2 → exec (.rsqrt a b) s = .next (s.withRegs
      { s.regs with t := y2, ph := 3, acc := 0, mcand := s.regs.xa.setWidth 64, mplier := y2, cnt := 32 })) ∧
    (s.regs.ph = 3 → exec (.rsqrt a b) s = .next (s.withRegs
      { s.regs with t := t', ph := 4, acc := 0, mcand := s.regs.y.setWidth 64, mplier := t', cnt := 32 })) ∧
    (s.regs.ph = 4 → s.regs.iter = false → exec (.rsqrt a b) s = .next (s.withRegs
      { s.regs with y := ynew, iter := true, ph := 2, acc := 0, mcand := ynew.setWidth 64, mplier := ynew,
                    cnt := 32 })) ∧
    (s.regs.ph = 4 → s.regs.iter = true → exec (.rsqrt a b) s = .next (s.withRegs
      { s.regs with y := ynew, r0 := ynew, r1 := 0, busy := false, done := true, acc := BitVec.ofNat 64 p,
                    mcand := BitVec.ofNat 64 (u.toNat * 2 ^ 32), mplier := 0, cnt := 0 }))

/-- 44_rsqrt.md R104, R114: in a state of a run, the last step of the second iteration completes `RSQRT` with
the estimate of the latched operand. -/
def Obligations.RsqrtCompletesWithTheEstimate : Prop :=
  ∀ (a b : Word) (s : State), s.wellRun → s.regs.busy = true → s.regs.opr = 4 → s.regs.ph = 4 →
    s.regs.iter = true → s.regs.cnt = 1 →
    ∃ t, exec (.rsqrt a b) s = .next t ∧ t.observe = ⟨false, true, rsqrt s.seed s.regs.xa, 0⟩ ∧
      t.regs.xa = s.regs.xa ∧ t.regs.xb = s.regs.xb ∧ t.regs.rem = s.regs.rem ∧ t.regs.quo = s.regs.quo ∧
      t.regs.dvd = s.regs.dvd ∧ t.regs.t = s.regs.t ∧ t.seed = s.seed ∧ t.script = s.script

/-! ### The functions -/

/-- 41_clz.md R70: the cascade meets the contract of the leading-zero count, a number of 6 bits that
zero-extends to 32 unchanged. -/
def Obligations.ClzCountsLeadingZeros : Prop :=
  clz32 0 = 32 ∧
  (∀ x : Word, clz32 x < 2 ^ 6 ∧ (BitVec.ofNat 32 (clz32 x)).toNat = clz32 x) ∧
  ∀ x : Word, x ≠ 0 →
    clz32 x ≤ 31 ∧ x.getLsbD (31 - clz32 x) = true ∧
    (∀ j, 31 - clz32 x < j → x.getLsbD j = false) ∧
    clz32 x = 31 - Nat.log2 x.toNat ∧
    2 ^ (31 - clz32 x) ≤ x.toNat ∧ x.toNat < 2 ^ (32 - clz32 x)

/-- 42_multiply.md R76, R77: the widening product is exact, the narrow one is taken modulo `2^32`; the two words
of the widening product are it again. -/
def Obligations.ProductsAreExact : Prop :=
  ∀ a b : Word,
    (mulw a b).toNat = a.toNat * b.toNat ∧ (mul a b).toNat = a.toNat * b.toNat % 2 ^ 32 ∧
    (mulw a b).toNat ≤ (mulw 0xFFFFFFFF 0xFFFFFFFF).toNat ∧
    (mulw 0xFFFFFFFF 0xFFFFFFFF) = 0xFFFFFFFE00000001 ∧
    (hiWord (mulw a b)).toNat * 2 ^ 32 + (loWord (mulw a b)).toNat = a.toNat * b.toNat ∧
    mul a b = loWord (mulw a b)

/-- 43_divide.md R90, R91: the quotient and remainder are the unique pair of integer division, and `(0, 0)` for a
zero divisor. -/
def Obligations.DivisionContract : Prop :=
  ∀ a b : Word,
    (b ≠ 0 → (divrem a b).1.toNat * b.toNat + (divrem a b).2.toNat = a.toNat ∧
      (divrem a b).2.toNat < b.toNat ∧
      ∀ q r : Nat, q * b.toNat + r = a.toNat → r < b.toNat →
        q = (divrem a b).1.toNat ∧ r = (divrem a b).2.toNat) ∧
    divrem a 0 = (0, 0) ∧ divrem 0 b = (0, 0)

/-- 42_multiply.md R82: the multiplier's loop invariant after every number of iterations, and the product in the
last. -/
def Obligations.MultiplyLoopInvariant : Prop :=
  ∀ (u v : Word) (r : Regs) (k : Nat), k ≤ 32 →
    let q := mulStep^[k] (mulInit u v r)
    q.cnt.toNat = 32 - k ∧ q.acc.toNat = u.toNat * (v.toNat % 2 ^ k) ∧
    q.mcand.toNat = u.toNat * 2 ^ k % 2 ^ 64 ∧ q.mplier = v >>> k ∧
    (k < 32 → (lastIteration q = true ↔ k = 31) ∧
      (mulAcc q).toNat = q.acc.toNat + (if v.toNat.testBit k then u.toNat * 2 ^ k else 0)) ∧
    (k = 31 → mulAcc q = mulw u v)

/-- 43_divide.md R95, R96: the divider's loop invariant after every number of steps, and that the shift of the
running remainder never loses a bit. -/
def Obligations.DivideLoopInvariant : Prop :=
  ∀ (a : Word) (r : Regs) (k : Nat), k ≤ 32 →
    let q := divStep^[k] (divInit a r)
    let p := a.toNat / 2 ^ (32 - k)
    q.cnt.toNat = 32 - k ∧ q.dvd = a <<< k ∧
    (r.xb ≠ 0 → q.quo.toNat = p / r.xb.toNat ∧ q.rem.toNat = p % r.xb.toNat ∧ q.rem.toNat < r.xb.toNat) ∧
    (r.xb = 0 → q.quo = 0 ∧ q.rem.toNat = p) ∧
    (k < 32 → q.rem.toNat < 2 ^ k ∧ q.rem.getLsbD 31 = false ∧
      (divShifted q).toNat = 2 * q.rem.toNat + (if a.toNat.testBit (31 - k) then 1 else 0) ∧
      (divShifted q).toNat ≤ a.toNat / 2 ^ (31 - k))

/-- 20_memory.md R37: the entry beyond the last reads as 0, and it is asked for exactly for operands above
`2^31`; no index above 32 arises. -/
def Obligations.SeedBeyondTheTableIsZero : Prop :=
  ∀ seed : SeedTable, (∀ i : Fin 32, seedX seed i.val = seed[i]) ∧ seedX seed 32 = 0 ∧
    ∀ x : Word, 2 ≤ x.toNat → (exponentOf x).val + 1 ≤ 32 ∧
      (((exponentOf x).val + 1 = 32 ∧ 2 ^ (exponentOf x).val < x.toNat) ↔ 2 ^ 31 < x.toNat)

/-- 44_rsqrt.md R106: the exponent is the floor of the binary logarithm and a legal ROM index. -/
def Obligations.ExponentIsTheLogarithm : Prop :=
  ∀ x : Word, 2 ≤ x.toNat →
    clz32 x ≤ 30 ∧ 1 ≤ (exponentOf x).val ∧ (exponentOf x).val ≤ 31 ∧
    (exponentOf x).val = 31 - clz32 x ∧ (exponentOf x).val = Nat.log2 x.toNat ∧
    2 ^ (exponentOf x).val ≤ x.toNat ∧ x.toNat < 2 ^ ((exponentOf x).val + 1)

/-- 44_rsqrt.md R107: no 64-bit operation of the fraction wraps; it is the exact quotient, of 16 bits, the bits of
`x` just below its leading 1. -/
def Obligations.FractionIsExact : Prop :=
  ∀ x : Word, 2 ≤ x.toNat →
    (fractionOf x).toNat = (x.toNat - 2 ^ (exponentOf x).val) * 2 ^ 16 / 2 ^ (exponentOf x).val ∧
    (fractionOf x).toNat ≤ 65535 ∧
    (16 ≤ (exponentOf x).val → fractionOf x = (x.extractLsb' ((exponentOf x).val - 16) 16).setWidth 32) ∧
    ((exponentOf x).val < 16 →
      (fractionOf x).toNat = x.toNat % 2 ^ (exponentOf x).val * 2 ^ (16 - (exponentOf x).val))

/-- 44_rsqrt.md R107: with a non-increasing table of 16-bit entries nothing wraps in the interpolation, and the
interpolated estimate lies between the two entries. -/
def Obligations.InterpolationStaysBetweenEntries : Prop :=
  ∀ (seed : SeedTable) (x : Word), 2 ≤ x.toNat →
    (∀ i : Fin 31, seedX seed (i.val + 1) ≤ seedX seed i.val) →
    (∀ i : Fin 31, (seedX seed (i.val + 1)).toNat < 65536) →
    let e := (exponentOf x).val
    (seedDelta seed x).toNat = (seedX seed e).toNat - (seedX seed (e + 1)).toNat ∧
    seedX seed (e + 1) ≤ seedX seed e ∧
    (seedDelta seed x).toNat * (fractionOf x).toNat < 2 ^ 32 ∧
    seedX seed (e + 1) ≤ initialEstimate seed x ∧ initialEstimate seed x ≤ seedX seed e

/-- 44_rsqrt.md R118: interpolating at a power of two changes nothing, so applying the interpolation to every
operand from 2 up gives the same results. -/
def Obligations.PowerOfTwoMayTakeEitherPath : Prop :=
  ∀ (seed : SeedTable) (x : Word), 2 ≤ x.toNat →
    let y := romRead seed (exponentOf x)
    let y' := y - mul (seedDelta seed x) (fractionOf x) >>> 16
    (x.toNat = 2 ^ (exponentOf x).val → fractionOf x = 0 ∧ y' = y) ∧
    rsqrt seed x = newton x (newton x y')

/-- 44_rsqrt.md R105: the two special cases, for every table, at the function level and in the run step of phase
0, which leaves the multiplier and the estimate alone. -/
def Obligations.RsqrtSpecialCases : Prop :=
  ∀ seed : SeedTable, rsqrt seed 0 = 0xFFFFFFFF ∧ rsqrt seed 1 = 65536 ∧
    ∀ r : Regs, r.opr = 4 → r.ph = 0 →
      (r.xa = 0 → run seed r = { r with r0 := 0xFFFFFFFF, r1 := 0, busy := false, done := true }) ∧
      (r.xa = 1 → run seed r = { r with r0 := 65536, r1 := 0, busy := false, done := true })

/-- 44_rsqrt.md R108, R109: a Newton iteration in numbers, with every truncation to 32 bits, for every `x` and
`y`. -/
def Obligations.NewtonInNumbers : Prop :=
  ∀ x y : Word,
    let y2 := y.toNat * y.toNat % 2 ^ 32
    let xy2 := x.toNat * y2 / 2 ^ 16 % 2 ^ 32
    let t := (196608 + 2 ^ 32 - xy2) % 2 ^ 32
    (newton x y).toNat = y.toNat * t / 2 ^ 17 % 2 ^ 32

/-- 70_reset_and_hazards.md R146, 44_rsqrt.md R119: the three durations of `RSQRT` by the operand's class, and one
duration for each other operation. -/
def Obligations.LatencyByOperandClass : Prop :=
  ∀ a b : Word, latency (.clz a b) = 1 ∧ latency (.mulw a b) = 32 ∧ latency (.mul a b) = 32 ∧
    latency (.divrem a b) = 32 ∧
    (a = 0 ∨ a = 1 → latency (.rsqrt a b) = 1) ∧
    ((∃ e : Nat, 1 ≤ e ∧ a.toNat = 2 ^ e) → latency (.rsqrt a b) = 193) ∧
    (a ≠ 0 → (∀ e : Nat, a.toNat ≠ 2 ^ e) → latency (.rsqrt a b) = 225)

/-! ### The default seed table -/

/-- 20_memory.md R41: the default table meets the requirements of R40 that have a stated bound, and it is the
table of the reset state. -/
def Obligations.DefaultSeedMeetsRequirements : Prop :=
  meetsSeedRequirements Config.defaultSeed ∧ State.reset.seed = Config.defaultSeed

/-- 44_rsqrt.md R116 item 1, for the default table: in neither Newton iteration of any operand does a truncation
drop a bit or the subtraction wrap, so the iteration is the exact formula. -/
def Obligations.NoBitIsLostWithTheDefaultSeed : Prop :=
  ∀ x y : Word, 2 ≤ x.toNat →
    y = initialEstimate Config.defaultSeed x ∨ y = newton x (initialEstimate Config.defaultSeed x) →
    y.toNat * y.toNat < 2 ^ 32 ∧
    x.toNat * (y.toNat * y.toNat) / 2 ^ 16 ≤ 196608 ∧
    y.toNat * (196608 - x.toNat * (y.toNat * y.toNat) / 2 ^ 16) / 2 ^ 17 < 2 ^ 32 ∧
    (newton x y).toNat = y.toNat * (196608 - x.toNat * (y.toNat * y.toNat) / 2 ^ 16) / 2 ^ 17

/-- 44_rsqrt.md R116 item 2 and R115 item 6, for the default table: for every operand from 2 on the result lies between 1
and 46341, it is 46341 at 2, and only `RSQRT 0` gives the sentinel. -/
def Obligations.ResultRangeWithTheDefaultSeed : Prop :=
  (∀ x : Word, 2 ≤ x.toNat →
    1 ≤ (rsqrt Config.defaultSeed x).toNat ∧ (rsqrt Config.defaultSeed x).toNat ≤ 46341) ∧
  rsqrt Config.defaultSeed 2 = 46341 ∧
  ∀ x : Word, rsqrt Config.defaultSeed x = 0xFFFFFFFF ↔ x = 0

/-- 44_rsqrt.md R115 item 4 (an absolute error, 90_conflicts.md C4), for the default table and for every nonzero
operand. -/
def Obligations.EstimatorWithinTolerance : Prop :=
  ∀ x : Word, 1 ≤ x.toNat →
    |((rsqrt Config.defaultSeed x).toNat : ℝ) / 65536 - 1 / Real.sqrt (x.toNat : ℝ)| ≤ 2 / 1000

/-! ### The whole machine -/

/-- 10_state.md R32: the invariant (flags, ranges, both serial loops, the estimator's phases, results) holds after
every step from every state that has it, whatever the inputs and the table. -/
def Obligations.EveryStepKeepsTheInvariant : Prop :=
  ∀ s t : State, s.wellRun → step s = .next t → t.wellRun

/-- 10_state.md R32: the invariant holds in the reset state, and after a reset step from any state. -/
def Obligations.ResetHasTheInvariant : Prop :=
  State.reset.wellRun ∧ ∀ seed : SeedTable, Regs.reset.wellRun seed

/-- 40_sequencer.md R68: the agreement of the two levels. From any idle state an offered command runs for exactly
`LAT` run steps, whatever else is offered meanwhile, with the old results shown, and then shows the
function-level result. -/
def Obligations.CommandRunsToItsResult : Prop :=
  ∀ (s : State) (i : Instr) (ins : List Input), s.regs.busy = false →
    (∀ inp ∈ ins, inp.rst = false) → ins.length = latency i →
    (∀ k, k < latency i →
      ∃ t, State.reaches { s with script := steps (Input.offer i :: ins) } (k + 1) t ∧
        t.observe = ⟨true, false, s.regs.r0, s.regs.r1⟩) ∧
    ∃ t, State.reaches { s with script := steps (Input.offer i :: ins) } (latency i + 1) t ∧
      t.observe = ⟨false, true, (result s.seed i).1, (result s.seed i).2⟩ ∧ t.seed = s.seed

/-- 70_reset_and_hazards.md R151: in a state of a run, a run step brings the command exactly one step nearer to its
completion, which happens in the last one and not before. -/
def Obligations.EveryRunStepIsProgress : Prop :=
  ∀ s : State, s.wellRun → s.regs.busy = true → s.ports.rst = false →
    ∃ t, step s = .next t ∧ t.regs.remaining + 1 = s.regs.remaining ∧
      (s.regs.remaining = 1 → t.regs.busy = false ∧ t.regs.done = true) ∧
      (s.regs.remaining ≠ 1 → t.regs.busy = true ∧ t.regs.done = false)

/-- 70_reset_and_hazards.md R148: with `start` held high on one command, it is accepted again in the step after
each completion: one command every `LAT + 1` steps, `done` visible for one step at a time. -/
def Obligations.HeldStartReissues : Prop :=
  ∀ (s : State) (i : Instr) (n k : Nat), s.regs.busy = false → k ≤ n →
    ∃ t, State.reaches { s with script := List.replicate n (.step (Input.offer i)) } k t ∧
      (k % (latency i + 1) = 0 → 0 < k →
        t.observe = ⟨false, true, (result s.seed i).1, (result s.seed i).2⟩) ∧
      (k % (latency i + 1) ≠ 0 → t.regs.busy = true ∧ t.regs.done = false)

/-- 30_encoding.md R59: what a user reads after `DIV`, `MOD`, `SQR` and `<mnemonic>!` on an idle block, when the
script is over. -/
def Obligations.PseudoCommandsDeliver : Prop :=
  ∀ (s : State) (a b : Word) (c : CommandLine), s.regs.busy = false →
    (∃ t, (s.withScript [.div a b]).reaches 33 t ∧ nextInput t.regs.done t.script = none ∧
      SourceLine.reading t.observe (.div a b) = .word (divrem a b).1) ∧
    (∃ t, (s.withScript [.mod a b]).reaches 33 t ∧ nextInput t.regs.done t.script = none ∧
      SourceLine.reading t.observe (.mod a b) = .word (divrem a b).2) ∧
    (∃ t, (s.withScript [.sqr a]).reaches 33 t ∧ nextInput t.regs.done t.script = none ∧
      SourceLine.reading t.observe (.sqr a) = .dword (mulw a a)) ∧
    (∃ t, (s.withScript [.bang c]).reaches (latency c.instr + 1) t ∧ nextInput t.regs.done t.script = none ∧
      SourceLine.reading t.observe (.bang c) = .pair (result s.seed c.instr).1 (result s.seed c.instr).2)

/-- 10_state.md R30: two idle blocks that look the same to a user, whatever their hidden registers hold, look the
same for ever under the same inputs: no result depends on what an earlier command left behind. -/
def Obligations.HiddenRegistersAreNeverSeen : Prop :=
  ∀ s1 s2 : State, s1.regs.busy = false → s1.looksLike s2 →
    ∀ k, ∃ t1 t2, s1.reaches k t1 ∧ s2.reaches k t2 ∧ t1.observe = t2.observe

/-- 30_encoding.md R53, 70_reset_and_hazards.md R150: the value on `b` at a `CLZ` or an `RSQRT` is never seen, in
any state and however the inputs go on. -/
def Obligations.UnusedOperandIsNeverSeen : Prop :=
  ∀ (s : State) (a b b' : Word) (rest : List ScriptLine) (k : Nat),
    (∃ t1 t2, State.reaches { s with script := .step (Input.offer (.clz a b)) :: rest } k t1 ∧
      State.reaches { s with script := .step (Input.offer (.clz a b')) :: rest } k t2 ∧
      t1.observe = t2.observe) ∧
    (∃ t1 t2, State.reaches { s with script := .step (Input.offer (.rsqrt a b)) :: rest } k t1 ∧
      State.reaches { s with script := .step (Input.offer (.rsqrt a b')) :: rest } k t2 ∧
      t1.observe = t2.observe)

/-- 20_memory.md R38: a step reads the ROM only in phase 0 of `RSQRT` with an operand of at least 2, there entry
`e` and, unless the operand is a power of two, entry `e + 1`; so entry 0 is never read. -/
def Obligations.RomReadsAreTheTwoEntries : Prop :=
  (∀ (s : State) (seed' : SeedTable),
    (s.regs.busy = true → s.regs.opr = 4 → s.regs.ph = 0 → 2 ≤ s.regs.xa.toNat →
      let e := exponentOf s.regs.xa
      romRead seed' e = romRead s.seed e ∧
      (s.regs.xa.toNat ≠ 2 ^ e.val → seedX seed' (e.val + 1) = seedX s.seed (e.val + 1))) →
    ∃ r : Regs, step s = .next (s.sampled.withRegs r) ∧
      step { s with seed := seed' } = .next ({ s.sampled.withRegs r with seed := seed' })) ∧
  (∀ (s : State) (seed' : SeedTable), (∀ i : Fin 32, i ≠ 0 → romRead seed' i = romRead s.seed i) →
    ∃ r : Regs, step s = .next (s.sampled.withRegs r) ∧
      step { s with seed := seed' } = .next ({ s.sampled.withRegs r with seed := seed' }))

/-- 20_memory.md R39: the ROM holds the same content for ever, over any number of steps of any kind. -/
def Obligations.RomNeverChanges : Prop :=
  ∀ (k : Nat) (s t : State), s.reaches k t → t.seed = s.seed

/-- 10_state.md R21: who writes the operand and the result registers: the first only an accept step, with the
values of the ports; the second only a completion, both together; and a reset step writes all four. -/
def Obligations.OperandAndResultWriters : Prop :=
  ∀ s t : State, step s = .next t →
    ((t.regs.xa, t.regs.xb) ≠ (s.regs.xa, s.regs.xb) →
      s.ports.rst = true ∨
      (s.regs.busy = false ∧ s.ports.offered ≠ none ∧ t.regs.xa = s.ports.a ∧ t.regs.xb = s.ports.b)) ∧
    ((t.regs.r0, t.regs.r1) ≠ (s.regs.r0, s.regs.r1) →
      s.ports.rst = true ∨ (s.regs.busy = true ∧ t.regs.busy = false ∧ t.regs.done = true))

/-- 10_state.md R26 to R28, 41_clz.md R72, 43_divide.md R97: which operation may write which hidden register, in a
run step and in an accept step. -/
def Obligations.DatapathsAreSeparate : Prop :=
  ∀ s t : State, step s = .next t → s.ports.rst = false →
    (s.regs.busy = true →
      t.regs.opr = s.regs.opr ∧
      (s.regs.opr ≠ 3 → (t.regs.rem, t.regs.quo, t.regs.dvd) = (s.regs.rem, s.regs.quo, s.regs.dvd)) ∧
      (s.regs.opr = 0 ∨ s.regs.opr = 3 →
        (t.regs.acc, t.regs.mcand, t.regs.mplier) = (s.regs.acc, s.regs.mcand, s.regs.mplier)) ∧
      (s.regs.opr ≠ 4 →
        (t.regs.ph, t.regs.iter, t.regs.y, t.regs.t) = (s.regs.ph, s.regs.iter, s.regs.y, s.regs.t)) ∧
      (s.regs.opr = 0 → t.regs.cnt = s.regs.cnt)) ∧
    (s.regs.busy = false →
      (t.regs.y, t.regs.t, t.regs.r0, t.regs.r1) = (s.regs.y, s.regs.t, s.regs.r0, s.regs.r1) ∧
      (s.ports.op ≠ 3 → (t.regs.rem, t.regs.quo, t.regs.dvd) = (s.regs.rem, s.regs.quo, s.regs.dvd)) ∧
      (s.ports.op ≠ 1 → s.ports.op ≠ 2 →
        (t.regs.acc, t.regs.mcand, t.regs.mplier) = (s.regs.acc, s.regs.mcand, s.regs.mplier)) ∧
      (s.ports.op ≠ 4 → (t.regs.ph, t.regs.iter) = (s.regs.ph, s.regs.iter)))

/-- 10_state.md R23, 60_exceptions.md R123: what sets and clears `BUSY` and `DONE`: reset first, acceptance only
from idle, completion only from a run step, never both in one step. -/
def Obligations.FlagsChangeOnlyByTheRules : Prop :=
  ∀ s t : State, step s = .next t →
    (s.ports.rst = true → t.regs.busy = false ∧ t.regs.done = false) ∧
    (s.ports.rst = false → s.regs.busy = false →
      (t.regs.busy = true ↔ s.ports.start = true ∧ s.ports.op.toNat ≤ 4) ∧
      (t.regs.busy = true → t.regs.done = false) ∧
      (t.regs.busy = false → t.regs.done = s.regs.done)) ∧
    (s.ports.rst = false → s.regs.busy = true →
      (t.regs.busy = false → t.regs.done = true) ∧ (t.regs.busy = true → t.regs.done = s.regs.done))
end

