-- ==== Sys2Proof/Laws/State.lean ====
section
/-! SUPPORT. One lemma per field per update: what each shared update of the registers and of the state
writes, and that it writes nothing else. -/

namespace Sys2Proof.Machine

@[simp] theorem latch_busy (op : OpCode) (a b : Word) (r : Regs) : (latch op a b r).busy = r.busy := rfl
@[simp] theorem latch_done (op : OpCode) (a b : Word) (r : Regs) : (latch op a b r).done = r.done := rfl
@[simp] theorem latch_opr (op : OpCode) (a b : Word) (r : Regs) : (latch op a b r).opr = op := rfl
@[simp] theorem latch_ph (op : OpCode) (a b : Word) (r : Regs) : (latch op a b r).ph = r.ph := rfl
@[simp] theorem latch_iter (op : OpCode) (a b : Word) (r : Regs) : (latch op a b r).iter = r.iter := rfl
@[simp] theorem latch_cnt (op : OpCode) (a b : Word) (r : Regs) : (latch op a b r).cnt = r.cnt := rfl
@[simp] theorem latch_xa (op : OpCode) (a b : Word) (r : Regs) : (latch op a b r).xa = a := rfl
@[simp] theorem latch_xb (op : OpCode) (a b : Word) (r : Regs) : (latch op a b r).xb = b := rfl
@[simp] theorem latch_r0 (op : OpCode) (a b : Word) (r : Regs) : (latch op a b r).r0 = r.r0 := rfl
@[simp] theorem latch_r1 (op : OpCode) (a b : Word) (r : Regs) : (latch op a b r).r1 = r.r1 := rfl
@[simp] theorem latch_acc (op : OpCode) (a b : Word) (r : Regs) : (latch op a b r).acc = r.acc := rfl
@[simp] theorem latch_mcand (op : OpCode) (a b : Word) (r : Regs) : (latch op a b r).mcand = r.mcand := rfl
@[simp] theorem latch_mplier (op : OpCode) (a b : Word) (r : Regs) : (latch op a b r).mplier = r.mplier := rfl
@[simp] theorem latch_rem (op : OpCode) (a b : Word) (r : Regs) : (latch op a b r).rem = r.rem := rfl
@[simp] theorem latch_quo (op : OpCode) (a b : Word) (r : Regs) : (latch op a b r).quo = r.quo := rfl
@[simp] theorem latch_dvd (op : OpCode) (a b : Word) (r : Regs) : (latch op a b r).dvd = r.dvd := rfl
@[simp] theorem latch_y (op : OpCode) (a b : Word) (r : Regs) : (latch op a b r).y = r.y := rfl
@[simp] theorem latch_t (op : OpCode) (a b : Word) (r : Regs) : (latch op a b r).t = r.t := rfl

@[simp] theorem markAccepted_busy (r : Regs) : (markAccepted r).busy = true := rfl
@[simp] theorem markAccepted_done (r : Regs) : (markAccepted r).done = false := rfl
@[simp] theorem markAccepted_opr (r : Regs) : (markAccepted r).opr = r.opr := rfl
@[simp] theorem markAccepted_ph (r : Regs) : (markAccepted r).ph = r.ph := rfl
@[simp] theorem markAccepted_iter (r : Regs) : (markAccepted r).iter = r.iter := rfl
@[simp] theorem markAccepted_cnt (r : Regs) : (markAccepted r).cnt = r.cnt := rfl
@[simp] theorem markAccepted_xa (r : Regs) : (markAccepted r).xa = r.xa := rfl
@[simp] theorem markAccepted_xb (r : Regs) : (markAccepted r).xb = r.xb := rfl
@[simp] theorem markAccepted_r0 (r : Regs) : (markAccepted r).r0 = r.r0 := rfl
@[simp] theorem markAccepted_r1 (r : Regs) : (markAccepted r).r1 = r.r1 := rfl
@[simp] theorem markAccepted_acc (r : Regs) : (markAccepted r).acc = r.acc := rfl
@[simp] theorem markAccepted_mcand (r : Regs) : (markAccepted r).mcand = r.mcand := rfl
@[simp] theorem markAccepted_mplier (r : Regs) : (markAccepted r).mplier = r.mplier := rfl
@[simp] theorem markAccepted_rem (r : Regs) : (markAccepted r).rem = r.rem := rfl
@[simp] theorem markAccepted_quo (r : Regs) : (markAccepted r).quo = r.quo := rfl
@[simp] theorem markAccepted_dvd (r : Regs) : (markAccepted r).dvd = r.dvd := rfl
@[simp] theorem markAccepted_y (r : Regs) : (markAccepted r).y = r.y := rfl
@[simp] theorem markAccepted_t (r : Regs) : (markAccepted r).t = r.t := rfl

@[simp] theorem acceptCommand_busy (op : OpCode) (a b : Word) (r : Regs) : (acceptCommand op a b r).busy = true := rfl
@[simp] theorem acceptCommand_done (op : OpCode) (a b : Word) (r : Regs) : (acceptCommand op a b r).done = false := rfl
@[simp] theorem acceptCommand_opr (op : OpCode) (a b : Word) (r : Regs) : (acceptCommand op a b r).opr = op := rfl
@[simp] theorem acceptCommand_ph (op : OpCode) (a b : Word) (r : Regs) : (acceptCommand op a b r).ph = r.ph := rfl
@[simp] theorem acceptCommand_iter (op : OpCode) (a b : Word) (r : Regs) : (acceptCommand op a b r).iter = r.iter := rfl
@[simp] theorem acceptCommand_cnt (op : OpCode) (a b : Word) (r : Regs) : (acceptCommand op a b r).cnt = r.cnt := rfl
@[simp] theorem acceptCommand_xa (op : OpCode) (a b : Word) (r : Regs) : (acceptCommand op a b r).xa = a := rfl
@[simp] theorem acceptCommand_xb (op : OpCode) (a b : Word) (r : Regs) : (acceptCommand op a b r).xb = b := rfl
@[simp] theorem acceptCommand_r0 (op : OpCode) (a b : Word) (r : Regs) : (acceptCommand op a b r).r0 = r.r0 := rfl
@[simp] theorem acceptCommand_r1 (op : OpCode) (a b : Word) (r : Regs) : (acceptCommand op a b r).r1 = r.r1 := rfl
@[simp] theorem acceptCommand_acc (op : OpCode) (a b : Word) (r : Regs) : (acceptCommand op a b r).acc = r.acc := rfl
@[simp] theorem acceptCommand_mcand (op : OpCode) (a b : Word) (r : Regs) : (acceptCommand op a b r).mcand = r.mcand := rfl
@[simp] theorem acceptCommand_mplier (op : OpCode) (a b : Word) (r : Regs) : (acceptCommand op a b r).mplier = r.mplier := rfl
@[simp] theorem acceptCommand_rem (op : OpCode) (a b : Word) (r : Regs) : (acceptCommand op a b r).rem = r.rem := rfl
@[simp] theorem acceptCommand_quo (op : OpCode) (a b : Word) (r : Regs) : (acceptCommand op a b r).quo = r.quo := rfl
@[simp] theorem acceptCommand_dvd (op : OpCode) (a b : Word) (r : Regs) : (acceptCommand op a b r).dvd = r.dvd := rfl
@[simp] theorem acceptCommand_y (op : OpCode) (a b : Word) (r : Regs) : (acceptCommand op a b r).y = r.y := rfl
@[simp] theorem acceptCommand_t (op : OpCode) (a b : Word) (r : Regs) : (acceptCommand op a b r).t = r.t := rfl

@[simp] theorem complete_busy (u v : Word) (r : Regs) : (complete u v r).busy = false := rfl
@[simp] theorem complete_done (u v : Word) (r : Regs) : (complete u v r).done = true := rfl
@[simp] theorem complete_opr (u v : Word) (r : Regs) : (complete u v r).opr = r.opr := rfl
@[simp] theorem complete_ph (u v : Word) (r : Regs) : (complete u v r).ph = r.ph := rfl
@[simp] theorem complete_iter (u v : Word) (r : Regs) : (complete u v r).iter = r.iter := rfl
@[simp] theorem complete_cnt (u v : Word) (r : Regs) : (complete u v r).cnt = r.cnt := rfl
@[simp] theorem complete_xa (u v : Word) (r : Regs) : (complete u v r).xa = r.xa := rfl
@[simp] theorem complete_xb (u v : Word) (r : Regs) : (complete u v r).xb = r.xb := rfl
@[simp] theorem complete_r0 (u v : Word) (r : Regs) : (complete u v r).r0 = u := rfl
@[simp] theorem complete_r1 (u v : Word) (r : Regs) : (complete u v r).r1 = v := rfl
@[simp] theorem complete_acc (u v : Word) (r : Regs) : (complete u v r).acc = r.acc := rfl
@[simp] theorem complete_mcand (u v : Word) (r : Regs) : (complete u v r).mcand = r.mcand := rfl
@[simp] theorem complete_mplier (u v : Word) (r : Regs) : (complete u v r).mplier = r.mplier := rfl
@[simp] theorem complete_rem (u v : Word) (r : Regs) : (complete u v r).rem = r.rem := rfl
@[simp] theorem complete_quo (u v : Word) (r : Regs) : (complete u v r).quo = r.quo := rfl
@[simp] theorem complete_dvd (u v : Word) (r : Regs) : (complete u v r).dvd = r.dvd := rfl
@[simp] theorem complete_y (u v : Word) (r : Regs) : (complete u v r).y = r.y := rfl
@[simp] theorem complete_t (u v : Word) (r : Regs) : (complete u v r).t = r.t := rfl

@[simp] theorem mulInit_busy (u v : Word) (r : Regs) : (mulInit u v r).busy = r.busy := rfl
@[simp] theorem mulInit_done (u v : Word) (r : Regs) : (mulInit u v r).done = r.done := rfl
@[simp] theorem mulInit_opr (u v : Word) (r : Regs) : (mulInit u v r).opr = r.opr := rfl
@[simp] theorem mulInit_ph (u v : Word) (r : Regs) : (mulInit u v r).ph = r.ph := rfl
@[simp] theorem mulInit_iter (u v : Word) (r : Regs) : (mulInit u v r).iter = r.iter := rfl
@[simp] theorem mulInit_cnt (u v : Word) (r : Regs) : (mulInit u v r).cnt = 32 := rfl
@[simp] theorem mulInit_xa (u v : Word) (r : Regs) : (mulInit u v r).xa = r.xa := rfl
@[simp] theorem mulInit_xb (u v : Word) (r : Regs) : (mulInit u v r).xb = r.xb := rfl
@[simp] theorem mulInit_r0 (u v : Word) (r : Regs) : (mulInit u v r).r0 = r.r0 := rfl
@[simp] theorem mulInit_r1 (u v : Word) (r : Regs) : (mulInit u v r).r1 = r.r1 := rfl
@[simp] theorem mulInit_acc (u v : Word) (r : Regs) : (mulInit u v r).acc = 0 := rfl
@[simp] theorem mulInit_mcand (u v : Word) (r : Regs) : (mulInit u v r).mcand = u.setWidth 64 := rfl
@[simp] theorem mulInit_mplier (u v : Word) (r : Regs) : (mulInit u v r).mplier = v := rfl
@[simp] theorem mulInit_rem (u v : Word) (r : Regs) : (mulInit u v r).rem = r.rem := rfl
@[simp] theorem mulInit_quo (u v : Word) (r : Regs) : (mulInit u v r).quo = r.quo := rfl
@[simp] theorem mulInit_dvd (u v : Word) (r : Regs) : (mulInit u v r).dvd = r.dvd := rfl
@[simp] theorem mulInit_y (u v : Word) (r : Regs) : (mulInit u v r).y = r.y := rfl
@[simp] theorem mulInit_t (u v : Word) (r : Regs) : (mulInit u v r).t = r.t := rfl

@[simp] theorem mulStep_busy (r : Regs) : (mulStep r).busy = r.busy := rfl
@[simp] theorem mulStep_done (r : Regs) : (mulStep r).done = r.done := rfl
@[simp] theorem mulStep_opr (r : Regs) : (mulStep r).opr = r.opr := rfl
@[simp] theorem mulStep_ph (r : Regs) : (mulStep r).ph = r.ph := rfl
@[simp] theorem mulStep_iter (r : Regs) : (mulStep r).iter = r.iter := rfl
@[simp] theorem mulStep_cnt (r : Regs) : (mulStep r).cnt = r.cnt - 1 := rfl
@[simp] theorem mulStep_xa (r : Regs) : (mulStep r).xa = r.xa := rfl
@[simp] theorem mulStep_xb (r : Regs) : (mulStep r).xb = r.xb := rfl
@[simp] theorem mulStep_r0 (r : Regs) : (mulStep r).r0 = r.r0 := rfl
@[simp] theorem mulStep_r1 (r : Regs) : (mulStep r).r1 = r.r1 := rfl
@[simp] theorem mulStep_acc (r : Regs) : (mulStep r).acc = mulAcc r := rfl
@[simp] theorem mulStep_mcand (r : Regs) : (mulStep r).mcand = r.mcand <<< 1 := rfl
@[simp] theorem mulStep_mplier (r : Regs) : (mulStep r).mplier = r.mplier >>> 1 := rfl
@[simp] theorem mulStep_rem (r : Regs) : (mulStep r).rem = r.rem := rfl
@[simp] theorem mulStep_quo (r : Regs) : (mulStep r).quo = r.quo := rfl
@[simp] theorem mulStep_dvd (r : Regs) : (mulStep r).dvd = r.dvd := rfl
@[simp] theorem mulStep_y (r : Regs) : (mulStep r).y = r.y := rfl
@[simp] theorem mulStep_t (r : Regs) : (mulStep r).t = r.t := rfl

@[simp] theorem divInit_busy (a : Word) (r : Regs) : (divInit a r).busy = r.busy := rfl
@[simp] theorem divInit_done (a : Word) (r : Regs) : (divInit a r).done = r.done := rfl
@[simp] theorem divInit_opr (a : Word) (r : Regs) : (divInit a r).opr = r.opr := rfl
@[simp] theorem divInit_ph (a : Word) (r : Regs) : (divInit a r).ph = r.ph := rfl
@[simp] theorem divInit_iter (a : Word) (r : Regs) : (divInit a r).iter = r.iter := rfl
@[simp] theorem divInit_cnt (a : Word) (r : Regs) : (divInit a r).cnt = 32 := rfl
@[simp] theorem divInit_xa (a : Word) (r : Regs) : (divInit a r).xa = r.xa := rfl
@[simp] theorem divInit_xb (a : Word) (r : Regs) : (divInit a r).xb = r.xb := rfl
@[simp] theorem divInit_r0 (a : Word) (r : Regs) : (divInit a r).r0 = r.r0 := rfl
@[simp] theorem divInit_r1 (a : Word) (r : Regs) : (divInit a r).r1 = r.r1 := rfl
@[simp] theorem divInit_acc (a : Word) (r : Regs) : (divInit a r).acc = r.acc := rfl
@[simp] theorem divInit_mcand (a : Word) (r : Regs) : (divInit a r).mcand = r.mcand := rfl
@[simp] theorem divInit_mplier (a : Word) (r : Regs) : (divInit a r).mplier = r.mplier := rfl
@[simp] theorem divInit_rem (a : Word) (r : Regs) : (divInit a r).rem = 0 := rfl
@[simp] theorem divInit_quo (a : Word) (r : Regs) : (divInit a r).quo = 0 := rfl
@[simp] theorem divInit_dvd (a : Word) (r : Regs) : (divInit a r).dvd = a := rfl
@[simp] theorem divInit_y (a : Word) (r : Regs) : (divInit a r).y = r.y := rfl
@[simp] theorem divInit_t (a : Word) (r : Regs) : (divInit a r).t = r.t := rfl

@[simp] theorem divStep_busy (r : Regs) : (divStep r).busy = r.busy := rfl
@[simp] theorem divStep_done (r : Regs) : (divStep r).done = r.done := rfl
@[simp] theorem divStep_opr (r : Regs) : (divStep r).opr = r.opr := rfl
@[simp] theorem divStep_ph (r : Regs) : (divStep r).ph = r.ph := rfl
@[simp] theorem divStep_iter (r : Regs) : (divStep r).iter = r.iter := rfl
@[simp] theorem divStep_cnt (r : Regs) : (divStep r).cnt = r.cnt - 1 := rfl
@[simp] theorem divStep_xa (r : Regs) : (divStep r).xa = r.xa := rfl
@[simp] theorem divStep_xb (r : Regs) : (divStep r).xb = r.xb := rfl
@[simp] theorem divStep_r0 (r : Regs) : (divStep r).r0 = r.r0 := rfl
@[simp] theorem divStep_r1 (r : Regs) : (divStep r).r1 = r.r1 := rfl
@[simp] theorem divStep_acc (r : Regs) : (divStep r).acc = r.acc := rfl
@[simp] theorem divStep_mcand (r : Regs) : (divStep r).mcand = r.mcand := rfl
@[simp] theorem divStep_mplier (r : Regs) : (divStep r).mplier = r.mplier := rfl
@[simp] theorem divStep_rem (r : Regs) : (divStep r).rem = divRem r := rfl
@[simp] theorem divStep_quo (r : Regs) : (divStep r).quo = divQuo r := rfl
@[simp] theorem divStep_dvd (r : Regs) : (divStep r).dvd = r.dvd <<< 1 := rfl
@[simp] theorem divStep_y (r : Regs) : (divStep r).y = r.y := rfl
@[simp] theorem divStep_t (r : Regs) : (divStep r).t = r.t := rfl

@[simp] theorem State.withRegs_regs (s : State) (r : Regs) : (s.withRegs r).regs = r := rfl
@[simp] theorem State.withRegs_seed (s : State) (r : Regs) : (s.withRegs r).seed = s.seed := rfl
@[simp] theorem State.withRegs_script (s : State) (r : Regs) : (s.withRegs r).script = s.script := rfl
@[simp] theorem State.withRegs_envTick (s : State) (r : Regs) : (s.withRegs r).envTick = s.envTick := rfl
@[simp] theorem State.withRegs_withRegs (s : State) (r q : Regs) : (s.withRegs r).withRegs q = s.withRegs q := rfl
@[simp] theorem State.withRegs_self (s : State) : s.withRegs s.regs = s := rfl

@[simp] theorem State.drive_regs (s : State) (inp : Input) : (s.drive inp).regs = s.regs := rfl
@[simp] theorem State.drive_seed (s : State) (inp : Input) : (s.drive inp).seed = s.seed := rfl
@[simp] theorem State.drive_script (s : State) (inp : Input) : (s.drive inp).script = .step inp :: s.script := rfl
@[simp] theorem State.drive_envTick (s : State) (inp : Input) : (s.drive inp).envTick = s.envTick := rfl

@[simp] theorem resetStep_regs (s : State) : (resetStep s).regs = Regs.reset := rfl
@[simp] theorem resetStep_seed (s : State) : (resetStep s).seed = s.seed := rfl
@[simp] theorem resetStep_script (s : State) : (resetStep s).script = s.script := rfl
@[simp] theorem resetStep_envTick (s : State) : (resetStep s).envTick = s.envTick := rfl

@[simp] theorem Regs.observe_busy (r : Regs) : r.observe.busy = r.busy := rfl
@[simp] theorem Regs.observe_done (r : Regs) : r.observe.done = r.done := rfl
@[simp] theorem Regs.observe_r0 (r : Regs) : r.observe.r0 = r.r0 := rfl
@[simp] theorem Regs.observe_r1 (r : Regs) : r.observe.r1 = r.r1 := rfl

end Sys2Proof.Machine
end

