-- ==== Sys2Proof/Laws/Ops.lean ====
section
/-! SUPPORT. What each shared operation can do, said once: the sampling of the inputs, the ROM's reads, the
serial loops' end test, and the edge at which a command is offered. -/

namespace Sys2Proof.Machine

/-! The script. -/

@[simp] theorem nextInput_nil (d : Bool) : nextInput d [] = none := rfl
@[simp] theorem nextInput_step (d : Bool) (inp : Input) (rest : List ScriptLine) :
    nextInput d (.step inp :: rest) = some (inp, rest) := rfl
@[simp] theorem nextInput_idle_zero (d : Bool) (rest : List ScriptLine) :
    nextInput d (.idle 0 :: rest) = nextInput d rest := rfl
@[simp] theorem nextInput_idle_succ (d : Bool) (n : Nat) (rest : List ScriptLine) :
    nextInput d (.idle (n + 1) :: rest) = some (Input.idle, .idle n :: rest) := rfl
@[simp] theorem nextInput_wait_done (rest : List ScriptLine) :
    nextInput true (.wait :: rest) = nextInput true rest := rfl
@[simp] theorem nextInput_wait_not_done (rest : List ScriptLine) :
    nextInput false (.wait :: rest) = some (Input.idle, .wait :: rest) := rfl

@[simp] theorem State.sampled_regs (s : State) : s.sampled.regs = s.regs := by
  unfold State.sampled; split <;> rfl
@[simp] theorem State.sampled_seed (s : State) : s.sampled.seed = s.seed := by
  unfold State.sampled; split <;> rfl
@[simp] theorem State.ports_drive (s : State) (inp : Input) : (s.drive inp).ports = inp := rfl
@[simp] theorem State.sampled_drive (s : State) (inp : Input) : (s.drive inp).sampled = s := rfl

/-- Sampling reads the registers only through `DONE` (for `WAIT`), and never the ROM. -/
theorem State.ports_congr {s t : State} (hd : s.regs.done = t.regs.done) (hs : s.script = t.script)
    (he : s.envTick = t.envTick) : s.ports = t.ports := by
  unfold State.ports; rw [hd, hs, he]

/-! The seed ROM. -/

@[simp] theorem seedX_last (seed : SeedTable) : seedX seed 32 = 0 := rfl

theorem seedX_of_lt (seed : SeedTable) {i : Nat} (h : i < 32) : seedX seed i = romRead seed ⟨i, h⟩ := by
  simp [seedX, h]

/-! The 16.16 format. -/

@[simp] theorem splitFixed_sentinel : splitFixed Config.sentinel = none := rfl

/-- The two parts put together again are the value that was split, which was not the sentinel. -/
theorem splitFixed_some {v : Word} {int frac : BitVec 16} (h : splitFixed v = some (int, frac)) :
    v ≠ Config.sentinel ∧ int ++ frac = v := by
  unfold splitFixed at h
  split at h <;> cases h
  refine ⟨‹_›, ?_⟩
  ext i hi
  simp only [fixedInt, fixedFrac, BitVec.getElem_append, BitVec.getElem_extractLsb']
  split
  · rw [Nat.zero_add, BitVec.getLsbD_eq_getElem hi]
  · rw [Nat.add_sub_cancel' (by omega), BitVec.getLsbD_eq_getElem hi]

/-! Commands. -/

theorem decodeCommand_ok {op : OpCode} {a b : Word} {i : Instr} (h : decodeCommand op a b = .ok i) :
    i.op = op ∧ i.a = a ∧ i.b = b := by
  unfold decodeCommand at h
  split at h <;> cases h <;> simp [Instr.op, Instr.a, Instr.b]

@[simp] theorem decodeCommand_op (i : Instr) : decodeCommand i.op i.a i.b = .ok i := by
  cases i <;> rfl

theorem decodeCommand_reserved {op : OpCode} (a b : Word) (h : 5 ≤ op.toNat) :
    decodeCommand op a b = .error (.reservedOp op) := by
  unfold decodeCommand
  split <;> first | rfl | (exfalso; revert h; decide)

@[simp] theorem Input.offered_offer (i : Instr) : (Input.offer i).offered = some i := by
  simp [Input.offered, Input.offer]

theorem Input.offered_of_ok {inp : Input} {i : Instr} (hs : inp.start = true)
    (h : decodeCommand inp.op inp.a inp.b = .ok i) : inp.offered = some i := by
  simp [Input.offered, hs, h]

theorem Input.offered_eq_some {inp : Input} {i : Instr} (h : inp.offered = some i) :
    inp.start = true ∧ decodeCommand inp.op inp.a inp.b = .ok i := by
  unfold Input.offered at h
  split at h
  · split at h
    · cases h; exact ⟨‹_›, ‹_›⟩
    · cases h
  · cases h

/-! The serial loops. -/

theorem lastIteration_iff (r : Regs) : lastIteration r = true ↔ r.cnt = 1 := by
  unfold lastIteration
  rw [beq_iff_eq]
  constructor
  · intro h; have := congrArg (· + 1) h; simpa using this
  · intro h; rw [h]; rfl

/-! Run steps, selected by the operation in `OPR`. -/

theorem run_clz (seed : SeedTable) {r : Regs} (h : r.opr = 0) : run seed r = runClz r := by
  unfold run Regs.command; rw [h]; rfl
theorem run_mulw (seed : SeedTable) {r : Regs} (h : r.opr = 1) : run seed r = runMulw r := by
  unfold run Regs.command; rw [h]; rfl
theorem run_mul (seed : SeedTable) {r : Regs} (h : r.opr = 2) : run seed r = runMul r := by
  unfold run Regs.command; rw [h]; rfl
theorem run_divrem (seed : SeedTable) {r : Regs} (h : r.opr = 3) : run seed r = runDivrem r := by
  unfold run Regs.command; rw [h]; rfl
theorem run_rsqrt (seed : SeedTable) {r : Regs} (h : r.opr = 4) : run seed r = runRsqrt seed r := by
  unfold run Regs.command; rw [h]; rfl
theorem run_reserved (seed : SeedTable) {r : Regs} (h : 5 ≤ r.opr.toNat) : run seed r = r := by
  unfold run Regs.command; rw [decodeCommand_reserved _ _ h]

/-- A run step is one of five, by `OPR`, or (in states no run reaches) none. -/
theorem run_cases (seed : SeedTable) (r : Regs) :
    (r.opr = 0 ∧ run seed r = runClz r) ∨ (r.opr = 1 ∧ run seed r = runMulw r) ∨
    (r.opr = 2 ∧ run seed r = runMul r) ∨ (r.opr = 3 ∧ run seed r = runDivrem r) ∨
    (r.opr = 4 ∧ run seed r = runRsqrt seed r) ∨ (5 ≤ r.opr.toNat ∧ run seed r = r) := by
  have h : r.opr = 0 ∨ r.opr = 1 ∨ r.opr = 2 ∨ r.opr = 3 ∨ r.opr = 4 ∨ 5 ≤ r.opr.toNat := by
    have : ∀ o : OpCode, o = 0 ∨ o = 1 ∨ o = 2 ∨ o = 3 ∨ o = 4 ∨ 5 ≤ o.toNat := by decide
    exact this _
  rcases h with h | h | h | h | h | h
  · exact .inl ⟨h, run_clz seed h⟩
  · exact .inr (.inl ⟨h, run_mulw seed h⟩)
  · exact .inr (.inr (.inl ⟨h, run_mul seed h⟩))
  · exact .inr (.inr (.inr (.inl ⟨h, run_divrem seed h⟩)))
  · exact .inr (.inr (.inr (.inr (.inl ⟨h, run_rsqrt seed h⟩))))
  · exact .inr (.inr (.inr (.inr (.inr ⟨h, run_reserved seed h⟩))))

/-- The phases of a run step of `RSQRT`; above phase 4, which no run reaches, none. -/
theorem runRsqrt_cases (seed : SeedTable) (r : Regs) :
    (r.ph = 0 ∧ runRsqrt seed r = rsqrtPhase0 seed r) ∨ (r.ph = 1 ∧ runRsqrt seed r = rsqrtPhase1 r) ∨
    (r.ph = 2 ∧ runRsqrt seed r = rsqrtPhase2 r) ∨ (r.ph = 3 ∧ runRsqrt seed r = rsqrtPhase3 r) ∨
    (r.ph = 4 ∧ runRsqrt seed r = rsqrtPhase4 r) ∨ (5 ≤ r.ph.toNat ∧ runRsqrt seed r = r) := by
  have h : r.ph = 0 ∨ r.ph = 1 ∨ r.ph = 2 ∨ r.ph = 3 ∨ r.ph = 4 ∨ 5 ≤ r.ph.toNat := by
    have : ∀ o : BitVec 3, o = 0 ∨ o = 1 ∨ o = 2 ∨ o = 3 ∨ o = 4 ∨ 5 ≤ o.toNat := by decide
    exact this _
  rcases h with h | h | h | h | h | h
  · exact .inl ⟨h, by simp [runRsqrt, h]⟩
  · exact .inr (.inl ⟨h, by simp [runRsqrt, h]⟩)
  · exact .inr (.inr (.inl ⟨h, by simp [runRsqrt, h]⟩))
  · exact .inr (.inr (.inr (.inl ⟨h, by simp [runRsqrt, h]⟩)))
  · exact .inr (.inr (.inr (.inr (.inl ⟨h, by simp [runRsqrt, h]⟩))))
  · refine .inr (.inr (.inr (.inr (.inr ⟨h, ?_⟩))))
    have hne : ∀ o : BitVec 3, 5 ≤ o.toNat → o ≠ 0 ∧ o ≠ 1 ∧ o ≠ 2 ∧ o ≠ 3 ∧ o ≠ 4 := by decide
    obtain ⟨h0, h1, h2, h3, h4⟩ := hne _ h
    unfold runRsqrt
    rw [if_neg h0, if_neg h1, if_neg h2, if_neg h3, if_neg h4]

/-! Edges with and without a command. -/

theorem offerCommand_idle (f : Regs → Regs) {s : State} (h : s.regs.busy = false) :
    offerCommand f s = .next (s.withRegs (f s.regs)) := by
  simp [offerCommand, h]

theorem offerCommand_busy (f : Regs → Regs) {s : State} (h : s.regs.busy = true) :
    offerCommand f s = .next (s.withRegs (run s.seed s.regs)) := by
  simp [offerCommand, h]

theorem unofferedStep_idle {s : State} (h : s.regs.busy = false) : unofferedStep s = s := by
  simp [unofferedStep, h]

theorem unofferedStep_busy {s : State} (h : s.regs.busy = true) :
    unofferedStep s = s.withRegs (run s.seed s.regs) := by
  simp [unofferedStep, h]

end Sys2Proof.Machine
end

