-- ==== Sys2Proof/Laws/PerInstr.lean ====
section
/-! SUPPORT. Facts about every instruction as syntax, one lemma per constructor. -/

/-- The command word carries the operation code of the table in `CMD[66:64]`, and it is a legal one
(30_encoding.md R50, R52). -/
def Sys2Proof.Laws.LegalOp.Statement (i : Sys2Proof.Instr) : Prop :=
  i.wellFormed = true ∧ Sys2Proof.CommandWord.op (Sys2Proof.encode i) = i.op

namespace Sys2Proof.Laws.LegalOp

/-- The high field of a concatenation is its first part. -/
theorem op_of_append (op : OpCode) (b a : Word) : CommandWord.op ((op ++ b) ++ a) = op := by
  unfold CommandWord.op
  ext i hi
  simp only [BitVec.getElem_extractLsb', BitVec.getLsbD_append]
  have h1 : ¬ 64 + i < 32 := by omega
  have h2 : ¬ 64 + i - 32 < 32 := by omega
  rw [if_neg h1, if_neg h2, show 64 + i - 32 - 32 = i by omega, BitVec.getLsbD_eq_getElem hi]

theorem clz (a b : Word) : Statement (.clz a b) := ⟨rfl, op_of_append _ _ _⟩
theorem mulw (a b : Word) : Statement (.mulw a b) := ⟨rfl, op_of_append _ _ _⟩
theorem mul (a b : Word) : Statement (.mul a b) := ⟨rfl, op_of_append _ _ _⟩
theorem divrem (a b : Word) : Statement (.divrem a b) := ⟨rfl, op_of_append _ _ _⟩
theorem rsqrt (a b : Word) : Statement (.rsqrt a b) := ⟨rfl, op_of_append _ _ _⟩

end Sys2Proof.Laws.LegalOp
end

