-- ==== Sys2Proof/Laws/Step.lean ====
section
/-! SUPPORT. What a step can do, said once: every later proof cites these and never unfolds `step`. -/

namespace Sys2Proof.Machine

/-- The accept step of an instruction, as a function of the instruction. -/
def acceptOf : Instr → Regs → Regs
  | .clz a b => acceptClz a b
  | .mulw a b => acceptMulw a b
  | .mul a b => acceptMul a b
  | .divrem a b => acceptDivrem a b
  | .rsqrt a b => acceptRsqrt a b

/-- Everything `exec` does: the run step of a busy block, the accept step of an idle one. -/
theorem exec_eq (i : Instr) (s : State) :
    exec i s = .next (s.withRegs (if s.regs.busy then run s.seed s.regs else acceptOf i s.regs)) := by
  cases i <;> rfl

/-- Everything a step does to the registers (40_sequencer.md R61); the ROM never changes. -/
theorem step_eq (s : State) :
    step s = .next (s.sampled.withRegs
      (if s.ports.rst then Regs.reset
       else if s.regs.busy then run s.seed s.regs
       else match s.ports.offered with
         | some i => acceptOf i s.regs
         | none => s.regs)) := by
  unfold step
  split
  · rfl
  · cases h : s.ports.offered with
    | some i => simp only [exec_eq, State.sampled_regs, State.sampled_seed]
    | none =>
      simp only [unofferedStep, State.sampled_regs, State.sampled_seed]

/-- What a next state can be: reset, a run step, an acceptance, or nothing but the inputs moving on. -/
theorem step_cases {s t : State} (h : step s = .next t) :
    (s.ports.rst = true ∧ t = s.sampled.withRegs Regs.reset) ∨
    (s.ports.rst = false ∧ s.regs.busy = true ∧ t = s.sampled.withRegs (run s.seed s.regs)) ∨
    (s.ports.rst = false ∧ s.regs.busy = false ∧
      ∃ i, s.ports.offered = some i ∧ t = s.sampled.withRegs (acceptOf i s.regs)) ∨
    (s.ports.rst = false ∧ s.regs.busy = false ∧ s.ports.offered = none ∧ t = s.sampled) := by
  rw [step_eq] at h
  have ht := (Host.Outcome.next.inj h).symm
  cases hr : s.ports.rst with
  | true => exact .inl ⟨rfl, by simpa [hr] using ht⟩
  | false =>
    cases hb : s.regs.busy with
    | true => exact .inr (.inl ⟨rfl, rfl, by simpa [hr, hb] using ht⟩)
    | false =>
      cases ho : s.ports.offered with
      | some i => exact .inr (.inr (.inl ⟨rfl, rfl, i, rfl, by simpa [hr, hb, ho] using ht⟩))
      | none =>
        refine .inr (.inr (.inr ⟨rfl, rfl, rfl, ?_⟩))
        rw [ht]; simp only [hr, hb, ho]
        exact congrArg (State.withRegs s.sampled) (State.sampled_regs s).symm

/-- No step stops. -/
theorem step_total (s : State) : ∃ t, step s = .next t := ⟨_, step_eq s⟩

/-- No step writes the ROM. -/
theorem step_seed {s t : State} (h : step s = .next t) : t.seed = s.seed := by
  rcases step_cases h with ⟨-, rfl⟩ | ⟨-, -, rfl⟩ | ⟨-, -, i, -, rfl⟩ | ⟨-, -, -, rfl⟩ <;> simp

@[simp] theorem State.reaches_zero (s t : State) : s.reaches 0 t ↔ s = t := by
  simp [State.reaches, Host.Core.run, core]

theorem State.reaches_succ {s u : State} (h : step s = .next u) (k : Nat) (t : State) :
    s.reaches (k + 1) t ↔ u.reaches k t := by
  simp only [State.reaches, Host.Core.run, core, h]

/-- A run of any length exists. -/
theorem State.reaches_total (k : Nat) (s : State) : ∃ t, s.reaches k t := by
  induction k generalizing s with
  | zero => exact ⟨s, by simp⟩
  | succ k ih =>
    obtain ⟨u, hu⟩ := step_total s
    obtain ⟨t, ht⟩ := ih u
    exact ⟨t, (State.reaches_succ hu k t).2 ht⟩

end Sys2Proof.Machine
end

