-- ==== Sys2Proof/Tests/Slice0.lean ====
section
/-! SUPPORT. The author's tests: words and values written out in spec/95_test_vectors.md and in the rules'
worked examples, one step each; and for every statement with hypotheses a state and operands that meet them. -/

namespace Sys2Proof.Tests

open Sys2Proof.Machine

/-! ### Helpers -/

/-- The state after one step. -/
def after (s : State) : State :=
  match step s with
  | .next t => t
  | .fault _ => s
  | .refused _ => s

/-- The reset state with other registers. -/
def withRegs (r : Regs) : State := State.reset.withRegs r

/-- Registers of a block executing `op` on latched operands. -/
def executing (op : OpCode) (a b : Word) : Regs :=
  { Regs.reset with busy := true, opr := op, xa := a, xb := b }

/-- The last run step of `MULW 3, 5` or `MUL 3, 5` is next (95 section 2.2, register trace, run step 31). -/
def lastMultiply (op : OpCode) : Regs :=
  { executing op 3 5 with cnt := 1, acc := 0xF, mcand := 0x180000000 }

/-- The last run step of `DIVREM 13, 3` is next (95 section 2.3, register trace, run step 31). -/
def lastDivide : Regs :=
  { executing 3 13 3 with cnt := 1, quo := 2, dvd := 0x80000000 }

/-- The last run step of `RSQRT 3` is next (95 section 2.4, phase trace, run step 224). -/
def lastEstimate : Regs :=
  { executing 4 3 0 with ph := 4, iter := true, cnt := 1, y := 0x9356, t := 0x2019D,
                         acc := 0x12799B1BE, mcand := 0x49AB00000000 }

/-- The last step of phase `ph` of `RSQRT 3` with the product of 3 and 5 finished. -/
def closing (ph : BitVec 3) (iter : Bool) : Regs :=
  { executing 4 3 0 with ph := ph, iter := iter, cnt := 1, y := 46341, acc := 0xF, mcand := 0x180000000 }

/-! ### Well-formedness: reserved codes are refused (30_encoding.md R55; 93 U1) -/

theorem test_script_refuses_reserved_five : (ScriptLine.step ⟨false, true, 5, 0x1234, 0x5678⟩).admitted = false := by
  decide
theorem test_script_refuses_reserved_six : (ScriptLine.step ⟨false, true, 6, 1, 1⟩).admitted = false := by decide
theorem test_script_refuses_reserved_seven :
    scriptAdmitted [.wait, .idle 3, .step ⟨false, true, 7, 1, 1⟩] = false := by decide
theorem test_script_admits_reset_with_reserved : (ScriptLine.step ⟨true, true, 7, 1, 1⟩).admitted = true := by decide
theorem test_script_admits_commands :
    scriptAdmitted (assemble [.reset, .command (.divrem 100 7), .wait, .nop, .sqr 9]) = true := by decide
theorem test_every_instruction_wellFormed (i : Instr) : i.wellFormed = true := by cases i <;> rfl

/-! ### Decoding: one word of each operation, bit by bit (30_encoding.md R51, R52; 95 sections 2, 3) -/

theorem test_decode_clz :
    decodeTableWord 72 0b0000000000000000000000000000000000000000000000000010000000000000000
      = some (.clz 0x00010000 0) := by decide
theorem test_decode_mulw :
    decodeTableWord 72 0b0010000000000000000000000000000010100000000000000000000000000000011
      = some (.mulw 3 5) := by decide
theorem test_decode_mul :
    decodeTableWord 72 0b0100000000000000000000000000000011100000000000000000000000000001110
      = some (.mul 14 7) := by decide
theorem test_decode_divrem :
    decodeTableWord 72 0b0110000000000000000000000000000011100000000000000000000000001100100
      = some (.divrem 100 7) := by decide
theorem test_decode_rsqrt :
    decodeTableWord 72 0b1000000000000000000000000000000000011111111111111111111111111111111
      = some (.rsqrt 0xFFFFFFFF 0) := by decide
theorem test_decode_refuses_reserved : decode 0x50000567800001234 = .error (.reservedOp 5) := by decide
theorem test_encode_mulw : encode (.mulw 3 5) = 0x10000000500000003 := by decide

/-! ### The functions (95 sections 2.1 to 2.4) -/

theorem test_clz32_zero : clz32 0 = 32 := by decide
theorem test_clz32_stage_boundaries :
    [0x0000FFFF, 0x00010000, 0x00FFFFFF, 0x01000000, 0x0FFFFFFF, 0x10000000, 0x3FFFFFFF, 0x40000000,
      0x7FFFFFFF, 0x80000000].map (fun x : Word => clz32 x) = [16, 15, 8, 7, 4, 3, 2, 1, 1, 0] := by decide
theorem test_mulw : mulw 0xDEADBEEF 0xCAFEBABE = 0xB092AB7B88CF5B62 := by decide
theorem test_mul : mul 0x12345678 0x9ABCDEF0 = 0x242D2080 := by decide
theorem test_divrem : divrem 0xDEADBEEF 0x0000CAFE = (0x000118D3, 0x00009F95) := by decide
theorem test_divrem_by_zero : divrem 0xFFFFFFFF 0 = (0, 0) := by decide
theorem test_rsqrt_three : rsqrt Config.defaultSeed 3 = 37836 := by decide
theorem test_rsqrt_large : rsqrt Config.defaultSeed 0x40003FFF = 2 ∧ rsqrt Config.defaultSeed 0x40004000 = 1 := by
  decide

/-! ### One step (95 sections 2.2 to 2.4, 2.7) -/

theorem test_place_and_accept : (after (State.reset.withFetchWord 72 0x30000000700000064)).regs =
    { executing 3 100 7 with dvd := 100, cnt := 32 } := by decide
theorem test_clz_completes :
    (after ((withRegs (executing 0 0x00010000 0)).drive Input.idle)).regs =
      { executing 0 0x00010000 0 with busy := false, done := true, r0 := 15 } := by decide
theorem test_mulw_first_step :
    (after ((withRegs { executing 1 3 5 with cnt := 32, mcand := 3, mplier := 5 }).drive Input.idle)).regs =
      { executing 1 3 5 with cnt := 31, acc := 3, mcand := 6, mplier := 2 } := by decide
theorem test_mulw_completes :
    (after ((withRegs (lastMultiply 1)).drive Input.idle)).regs =
      { lastMultiply 1 with busy := false, done := true, cnt := 0, mcand := 0x300000000, r0 := 0xF } := by decide
theorem test_mul_drops_the_high_word :
    (after ((withRegs { executing 2 0x80000000 2 with cnt := 1, acc := 0x100000000 }).drive Input.idle)).observe =
      ⟨false, true, 0, 0⟩ := by decide
theorem test_divrem_completes :
    (after ((withRegs lastDivide).drive Input.idle)).regs =
      { lastDivide with busy := false, done := true, cnt := 0, rem := 1, quo := 4, dvd := 0, r0 := 4, r1 := 1 } := by
  decide
theorem test_divrem_by_zero_forces_remainder :
    (after ((withRegs { executing 3 7 0 with cnt := 1, rem := 3, dvd := 0x80000000 }).drive Input.idle)).regs =
      { executing 3 7 0 with busy := false, done := true, rem := 7 } := by decide
theorem test_rsqrt_phase0 :
    (after ((withRegs (executing 4 3 0)).drive Input.idle)).regs =
      { executing 4 3 0 with y := 0xB505, ph := 1, cnt := 32, mcand := 0x3505, mplier := 0x8000 } := by decide
theorem test_rsqrt_completes :
    (after ((withRegs lastEstimate).drive Input.idle)).regs =
      { lastEstimate with busy := false, done := true, cnt := 0, y := 0x93CC, r0 := 0x93CC,
                          mcand := 0x935600000000 } := by decide
/-- 30_encoding.md R60 and 44_rsqrt.md R105: the result of `RSQRT 1` splits as 1.0, that of `RSQRT 0` does not
split. -/
theorem test_split_of_results : splitFixed 0x00010000 = some (1, 0) ∧ splitFixed 0xFFFFFFFF = none := by decide
theorem test_reserved_code_changes_nothing :
    after (State.reset.drive ⟨false, true, 5, 0x1234, 0x5678⟩) = State.reset := by decide
theorem test_reset_wins :
    (after ((withRegs { executing 3 100 7 with dvd := 100, cnt := 32 }).drive ⟨true, true, 1, 9, 9⟩)).regs =
      Regs.reset := by decide
theorem test_accept_keeps_results :
    (after ((withRegs { Regs.reset with done := true, r0 := 14, r1 := 2 }).drive (Input.offer (.clz 0 0)))).observe =
      ⟨true, false, 14, 2⟩ := by decide
theorem test_divide_first_step_loses_command :
    (after ((withRegs { executing 3 100 7 with dvd := 100, cnt := 32 }).drive (Input.offer (.mulw 9 9)))).regs =
      { executing 3 100 7 with dvd := 200, cnt := 31 } := by decide

/-! ### Witnesses: for every statement with hypotheses, values that meet them -/

theorem witness_DecodeIsTheOpcodeMap :
    (0x10000000500000003 : CommandWord).toNat
        = (1 : OpCode).toNat * 2 ^ 64 + (5 : Word).toNat * 2 ^ 32 + (3 : Word).toNat ∧
      decode 0x10000000500000003 = .ok (.mulw 3 5) := ⟨rfl, by decide⟩

theorem witness_StepRunsTheOfferedCommand :
    let s := State.reset.drive (Input.offer (.mulw 3 5))
    s.ports.rst = false ∧ s.ports.start = true ∧
      decodeCommand s.ports.op s.ports.a s.ports.b = .ok (.mulw 3 5) ∧ Instr.wellFormed (.mulw 3 5) = true := by decide

theorem witness_PlacedWordRunsNext : decodeTableWord 72 0x400000000FFFFFFFF = some (.rsqrt 0xFFFFFFFF 0) := by decide

theorem witness_StepIsTheCascade : (executing 3 100 7).opr ≠ 4 := by decide

theorem witness_ExecAcceptsWhenIdle : State.reset.regs.busy = false := by decide

theorem witness_IdleStepsChangeNothing :
    State.reset.regs.busy = false ∧
      ∀ inp ∈ [Input.idle, ⟨false, true, 5, 1, 2⟩], inp.rst = false ∧ (inp.start = false ∨ 5 ≤ inp.op.toNat) := by
  decide

theorem witness_ReservedCodeIsIgnored :
    (State.reset.regs.busy = false ∧ 5 ≤ (5 : OpCode).toNat ∧ State.reset.regs.done = false) ∧
      (withRegs { Regs.reset with done := true }).regs.busy = false ∧
      (withRegs { Regs.reset with done := true }).regs.done = true := by decide

theorem witness_ResetClearsEveryRegister : Input.reset.rst = true := by decide

theorem witness_AbandonedCommandNeverCompletes :
    (withRegs (executing 3 7 0)).regs.busy = true ∧ Input.reset.rst = true ∧
      (∀ j ∈ [Input.idle, Input.reset], j.rst = true ∨ j.start = false) ∧
      2 ≤ [Input.idle, Input.reset].length := by decide

theorem witness_RunningBlockIgnoresItsInputs :
    (withRegs (executing 0 1 0)).regs.busy = true ∧ (Input.offer (.mulw 3 5)).rst = false ∧
      (after ((withRegs (executing 0 1 0)).drive (Input.offer (.mulw 3 5)))).regs.busy = false := by decide

theorem witness_PastTheScriptInputsAreFree : State.reset.script = [] := by decide

theorem witness_AdmittedOfferIsACommand :
    (Input.offer (.clz 1 0)).rst = false ∧ (Input.offer (.clz 1 0)).start = true ∧
      (Input.offer (.clz 1 0)).admitted = true ∧ Input.admitted ⟨false, true, 5, 0, 0⟩ = false := by decide

theorem witness_ClzRunStepCompletes :
    (withRegs (executing 0 0x00010000 0)).regs.busy = true ∧ (withRegs (executing 0 0x00010000 0)).regs.opr = 0 := by
  decide

theorem witness_MultiplyRunStep :
    (withRegs (lastMultiply 1)).regs.busy = true ∧ (lastMultiply 1).opr = 1 ∧ (lastMultiply 2).opr = 2 := by decide

theorem witness_MultiplyCompletesWithTheProduct :
    ∀ op ∈ [(1 : OpCode), 2], (lastMultiply op).busy = true ∧ (lastMultiply op).cnt = 1 ∧
      (lastMultiply op).multiplying (lastMultiply op).xa (lastMultiply op).xb ∧ (lastMultiply op).opr = op := by decide

theorem witness_DivremRunStep : lastDivide.busy = true ∧ lastDivide.opr = 3 := by decide

theorem witness_DivremCompletesWithTheQuotient :
    lastDivide.busy = true ∧ lastDivide.opr = 3 ∧ lastDivide.cnt = 1 ∧ lastDivide.dividing := by decide

theorem witness_RsqrtPhase0Step :
    (∀ x : Word, (executing 4 x 0).busy = true ∧ (executing 4 x 0).opr = 4 ∧ (executing 4 x 0).ph = 0 ∧
      (executing 4 x 0).xa = x) ∧
      (2 ≤ (3 : Word).toNat ∧ (3 : Word).toNat ≠ 2 ^ (31 - clz32 3)) ∧
      (2 ≤ (4 : Word).toNat ∧ (4 : Word).toNat = 2 ^ (31 - clz32 4)) :=
  ⟨fun _ => ⟨rfl, rfl, rfl, rfl⟩, by decide, by decide⟩

theorem witness_RsqrtPhaseInnerStep :
    ∀ ph ∈ [(1 : BitVec 3), 2, 3, 4], { closing ph false with cnt := 32 }.busy = true ∧
      { closing ph false with cnt := 32 }.opr = 4 ∧ (ph = 1 ∨ ph = 2 ∨ ph = 3 ∨ ph = 4) ∧
      { closing ph false with cnt := 32 }.ph = ph ∧ { closing ph false with cnt := 32 }.cnt ≠ 1 := by decide

theorem witness_RsqrtPhaseClosingStep :
    (∀ ph ∈ [(1 : BitVec 3), 2, 3, 4], ∀ it : Bool, (closing ph it).busy = true ∧ (closing ph it).opr = 4 ∧
      (closing ph it).cnt = 1 ∧ (closing ph it).multiplying 3 5 ∧ (closing ph it).ph = ph ∧
      (closing ph it).iter = it) := by decide

theorem lastEstimate_estimating : lastEstimate.estimating Config.defaultSeed := by decide

theorem witness_RsqrtCompletesWithTheEstimate :
    (withRegs lastEstimate).wellRun ∧ lastEstimate.busy = true ∧ lastEstimate.opr = 4 ∧ lastEstimate.ph = 4 ∧
      lastEstimate.iter = true ∧ lastEstimate.cnt = 1 :=
  ⟨⟨by decide, by decide, by decide, fun _ _ => lastEstimate_estimating, by decide⟩, by decide⟩

theorem witness_ClzCountsLeadingZeros : (0x80000000 : Word) ≠ 0 ∧ 31 - clz32 1 < 5 := by decide

theorem witness_DivisionContract :
    (7 : Word) ≠ 0 ∧ 14 * (7 : Word).toNat + 2 = (100 : Word).toNat ∧ 2 < (7 : Word).toNat := by decide

theorem witness_MultiplyLoopInvariant : 31 ≤ 32 ∧ 31 < 32 ∧ (31 : Nat) = 31 ∧ (32 : Nat) ≤ 32 := by decide

theorem witness_DivideLoopInvariant :
    (31 : Nat) ≤ 32 ∧ (31 : Nat) < 32 ∧ (executing 3 13 3).xb ≠ 0 ∧ (executing 3 7 0).xb = 0 := by decide

theorem witness_operands_from_two :
    2 ≤ (2 : Word).toNat ∧ 2 ≤ (0xFFFFFFFF : Word).toNat ∧ 16 ≤ (exponentOf 0x00010001).val ∧
      (exponentOf 3).val < 16 ∧ (4 : Word).toNat = 2 ^ (exponentOf 4).val := by decide

theorem witness_InterpolationStaysBetweenEntries :
    2 ≤ (3 : Word).toNat ∧
      (∀ i : Fin 31, seedX Config.defaultSeed (i.val + 1) ≤ seedX Config.defaultSeed i.val) ∧
      (∀ i : Fin 31, (seedX Config.defaultSeed (i.val + 1)).toNat < 65536) := by decide

theorem witness_RsqrtSpecialCases :
    (executing 4 0 0).opr = 4 ∧ (executing 4 0 0).ph = 0 ∧ (executing 4 0 0).xa = 0 ∧
      (executing 4 1 0).opr = 4 ∧ (executing 4 1 0).ph = 0 ∧ (executing 4 1 0).xa = 1 := by decide

theorem witness_LatencyByOperandClass :
    (1 ≤ 2 ∧ (4 : Word).toNat = 2 ^ 2) ∧ (3 : Word) ≠ 0 ∧ ∀ e : Nat, (3 : Word).toNat ≠ 2 ^ e := by
  refine ⟨by decide, by decide, fun e he => ?_⟩
  rcases e with _ | _ | e
  · exact absurd he (by decide)
  · exact absurd he (by decide)
  · have h : (3 : Word).toNat = 3 := rfl
    rw [h, Nat.pow_add 2 e 2] at he
    omega

theorem witness_NoBitIsLostWithTheDefaultSeed :
    2 ≤ (3 : Word).toNat ∧ (39555 : Word) = initialEstimate Config.defaultSeed 3 ∧
      (37718 : Word) = newton 3 (initialEstimate Config.defaultSeed 3) := by decide

theorem witness_EstimatorWithinTolerance : 1 ≤ (1 : Word).toNat := by decide

theorem witness_EveryStepKeepsTheInvariant :
    (withRegs lastEstimate).wellRun ∧ ∃ t, step ((withRegs lastEstimate).drive Input.idle) = .next t :=
  ⟨witness_RsqrtCompletesWithTheEstimate.1, _, rfl⟩

theorem witness_CommandRunsToItsResult :
    State.reset.regs.busy = false ∧ (∀ inp ∈ [Input.offer (.mul 2 2)], inp.rst = false) ∧
      [Input.offer (.mul 2 2)].length = latency (.clz 1 0) ∧ 0 < latency (.clz 1 0) := by decide

theorem witness_EveryRunStepIsProgress :
    (((withRegs lastEstimate).drive Input.idle).wellRun ∧
      ((withRegs lastEstimate).drive Input.idle).regs.busy = true ∧
      ((withRegs lastEstimate).drive Input.idle).ports.rst = false ∧
      ((withRegs lastEstimate).drive Input.idle).regs.remaining = 1) ∧
    (executing 0 1 0).remaining = 1 ∧ { executing 1 3 5 with cnt := 32 }.remaining ≠ 1 :=
  ⟨⟨witness_RsqrtCompletesWithTheEstimate.1, by decide, by decide, by decide⟩, by decide, by decide⟩

theorem witness_HeldStartReissues :
    State.reset.regs.busy = false ∧ 4 ≤ 5 ∧ 4 % (latency (.clz 1 0) + 1) = 0 ∧ 3 % (latency (.clz 1 0) + 1) ≠ 0 := by
  decide

theorem witness_HiddenRegistersAreNeverSeen :
    State.reset.regs.busy = false ∧ State.reset.looksLike (withRegs { Regs.reset with acc := 7, ph := 6, opr := 5 }) := by
  decide

theorem witness_RomReadsAreTheTwoEntries :
    (∀ i : Fin 32, i ≠ 0 → romRead (Config.defaultSeed.set 0 9) i = romRead State.reset.seed i) ∧
      (executing 4 3 0).busy = true ∧ (executing 4 3 0).opr = 4 ∧ (executing 4 3 0).ph = 0 ∧
      2 ≤ (executing 4 3 0).xa.toNat := by decide

theorem witness_RomNeverChanges : ∃ t, (State.reset.drive Input.reset).reaches 1 t := ⟨_, rfl⟩

theorem witness_OperandAndResultWriters :
    (∃ t, step (State.reset.drive (Input.offer (.mulw 3 5))) = .next t ∧
      (t.regs.xa, t.regs.xb) ≠ (State.reset.regs.xa, State.reset.regs.xb)) ∧
    ∃ t, step ((withRegs (lastMultiply 1)).drive Input.idle) = .next t ∧
      (t.regs.r0, t.regs.r1) ≠ ((lastMultiply 1).r0, (lastMultiply 1).r1) :=
  ⟨⟨_, rfl, by decide⟩, _, rfl, by decide⟩

theorem witness_DatapathsAreSeparate :
    (∃ t, step ((withRegs (executing 0 1 0)).drive Input.idle) = .next t) ∧ Input.idle.rst = false ∧
      (executing 0 1 0).busy = true ∧ (executing 0 1 0).opr = 0 ∧ (executing 3 1 0).opr = 3 ∧
      (∃ t, step (State.reset.drive (Input.offer (.clz 1 0))) = .next t) ∧ State.reset.regs.busy = false :=
  ⟨⟨_, rfl⟩, rfl, rfl, rfl, rfl, ⟨_, rfl⟩, rfl⟩

theorem witness_FlagsChangeOnlyByTheRules :
    (∃ t, step (State.reset.drive Input.reset) = .next t) ∧
    (∃ t, step (State.reset.drive (Input.offer (.clz 1 0))) = .next t ∧ t.regs.busy = true) ∧
    ∃ t, step ((withRegs (executing 0 1 0)).drive Input.idle) = .next t ∧ t.regs.busy = false :=
  ⟨⟨_, rfl⟩, ⟨_, rfl, rfl⟩, _, rfl, rfl⟩

end Sys2Proof.Tests
end

/-! The leading-zero count (41_clz.md R70, R71): what the cascade keeps, and the bounds it gives. -/

namespace Sys2Proof.Machine

/-- What holds between two stages of the cascade: the second part is `x` moved left by the count, no bit of it
lost, and its leading 1 is among the top `w` bits. -/
def shiftedUp (x : Word) (w : Nat) (nv : Nat × Word) : Prop :=
  nv.2.toNat = x.toNat * 2 ^ nv.1 ∧ 2 ^ (32 - w) ≤ nv.2.toNat

theorem topBits_eq_zero_iff {w : Nat} (hw : w ≤ 32) (v : Word) :
    v.extractLsb' (32 - w) w = 0 ↔ v.toNat < 2 ^ (32 - w) := by
  have hlt : v.toNat / 2 ^ (32 - w) < 2 ^ w := by
    rw [Nat.div_lt_iff_lt_mul (by positivity), ← Nat.pow_add, Nat.add_sub_cancel' hw]
    exact v.isLt
  rw [← BitVec.toNat_inj, BitVec.extractLsb'_toNat, Nat.shiftRight_eq_div_pow, Nat.mod_eq_of_lt hlt,
    show (0 : BitVec w).toNat = 0 from BitVec.toNat_zero, Nat.div_eq_zero_iff]
  simp

/-- A stage of `w` bits halves the group that holds the leading 1. -/
theorem clzStage_shiftedUp {x : Word} {w : Nat} (hw : 2 * w ≤ 32) {nv : Nat × Word}
    (h : shiftedUp x (2 * w) nv) : shiftedUp x w (clzStage w nv) := by
  obtain ⟨hval, hlow⟩ := h
  unfold clzStage
  split
  next hzero =>
    rw [topBits_eq_zero_iff (by omega)] at hzero
    have hmul : nv.2.toNat * 2 ^ w < 2 ^ 32 := by
      calc nv.2.toNat * 2 ^ w < 2 ^ (32 - w) * 2 ^ w := Nat.mul_lt_mul_of_pos_right hzero (by positivity)
        _ = 2 ^ 32 := by rw [← Nat.pow_add, Nat.sub_add_cancel (by omega)]
    have hshift : (nv.2 <<< w).toNat = nv.2.toNat * 2 ^ w := by
      rw [BitVec.toNat_shiftLeft, Nat.shiftLeft_eq, Nat.mod_eq_of_lt hmul]
    refine ⟨by rw [hshift, hval, Nat.pow_add, Nat.mul_assoc], ?_⟩
    calc 2 ^ (32 - w) = 2 ^ (32 - 2 * w) * 2 ^ w := by rw [← Nat.pow_add]; congr 1; omega
      _ ≤ nv.2.toNat * 2 ^ w := Nat.mul_le_mul_right _ hlow
      _ = _ := hshift.symm
  next hnonzero =>
    rw [topBits_eq_zero_iff (by omega)] at hnonzero
    exact ⟨hval, by omega⟩

/-- The five stages move the leading 1 of a nonzero word into bit 31. -/
theorem clz32_shifts_up {x : Word} (h : x ≠ 0) :
    2 ^ 31 ≤ x.toNat * 2 ^ clz32 x ∧ x.toNat * 2 ^ clz32 x < 2 ^ 32 := by
  have hpos : x.toNat ≠ 0 := fun h0 => h (BitVec.eq_of_toNat_eq h0)
  have hstart : shiftedUp x (2 * 16) (0, x) := ⟨by simp, by simp; omega⟩
  have h16 := clzStage_shiftedUp (by decide) hstart
  have h8 := clzStage_shiftedUp (w := 8) (by decide) h16
  have h4 := clzStage_shiftedUp (w := 4) (by decide) h8
  have h2 := clzStage_shiftedUp (w := 2) (by decide) h4
  obtain ⟨hval, hlow⟩ := clzStage_shiftedUp (w := 1) (by decide) h2
  rw [clz32, if_neg h, ← hval]
  exact ⟨hlow, BitVec.isLt _⟩

theorem clz32_le_31 {x : Word} (h : x ≠ 0) : clz32 x ≤ 31 := by
  have hpos : 1 ≤ x.toNat := Nat.one_le_iff_ne_zero.2 fun h0 => h (BitVec.eq_of_toNat_eq h0)
  have hlt : 2 ^ clz32 x < 2 ^ 32 :=
    (Nat.le_mul_of_pos_left _ hpos).trans_lt (clz32_shifts_up h).2
  have := (Nat.pow_lt_pow_iff_right (by decide)).1 hlt
  omega

/-- 44_rsqrt.md R106: the exponent is the place of the leading 1. -/
theorem exponentOf_bounds {x : Word} (h : x ≠ 0) :
    2 ^ (exponentOf x).val ≤ x.toNat ∧ x.toNat < 2 ^ ((exponentOf x).val + 1) := by
  have hle := clz32_le_31 h
  obtain ⟨hlow, hhigh⟩ := clz32_shifts_up h
  have he : (exponentOf x).val = 31 - clz32 x := rfl
  have h31 : 2 ^ (exponentOf x).val * 2 ^ clz32 x = 2 ^ 31 := by rw [← Nat.pow_add]; congr 1; omega
  have h32 : 2 ^ ((exponentOf x).val + 1) * 2 ^ clz32 x = 2 ^ 32 := by rw [← Nat.pow_add]; congr 1; omega
  constructor
  · exact Nat.le_of_mul_le_mul_right (h31 ▸ hlow) (by positivity)
  · exact Nat.lt_of_mul_lt_mul_right (h32 ▸ hhigh)

end Sys2Proof.Machine

/-! The multiplier's loop (42_multiply.md R78 to R82). -/

namespace Sys2Proof.Machine

theorem toNat_mulw (u v : Word) : (mulw u v).toNat = u.toNat * v.toNat := by
  rw [mulw, BitVec.toNat_ofNat, Nat.mod_eq_of_lt]
  calc u.toNat * v.toNat < 2 ^ 32 * 2 ^ 32 := Nat.mul_lt_mul'' u.isLt v.isLt
    _ = 2 ^ 64 := by norm_num

theorem mul_eq_loWord_mulw (u v : Word) : mul u v = loWord (mulw u v) := by
  apply BitVec.eq_of_toNat_eq
  rw [mul, loWord, BitVec.extractLsb'_toNat, toNat_mulw, Nat.shiftRight_zero, BitVec.toNat_ofNat]

/-- The decrement of a running counter does not wrap. -/
theorem Regs.looping.toNat_cnt_sub_one {r : Regs} (h : r.looping) : (r.cnt - 1).toNat = r.cnt.toNat - 1 := by
  obtain ⟨hpos, -⟩ := h
  bv_omega

/-- After the decrement one iteration more is done. -/
theorem Regs.looping.done_succ {r : Regs} (h : r.looping) :
    32 - (r.cnt.toNat - 1) = 32 - r.cnt.toNat + 1 := by
  obtain ⟨hpos, hle⟩ := h
  omega

theorem Regs.looping.sub_one {r : Regs} (h : r.looping) (hne : r.cnt ≠ 1) :
    1 ≤ (r.cnt - 1).toNat ∧ (r.cnt - 1).toNat ≤ 32 := by
  have hcnt := h.toNat_cnt_sub_one
  obtain ⟨hpos, hle⟩ := h
  have : r.cnt.toNat ≠ 1 := fun h1 => hne (BitVec.eq_of_toNat_eq h1)
  omega

theorem looping_of_loaded {r : Regs} (h : r.cnt = 32) : r.looping := by simp [Regs.looping, h]

/-- `mul_init` starts the loop of its two arguments. -/
theorem mulInit_multiplying (u v : Word) (r : Regs) : (mulInit u v r).multiplying u v := by
  refine ⟨by simp [Nat.mod_one], ?_, by simp⟩
  have hlt : u.toNat < 2 ^ 64 := u.isLt.trans (by decide)
  simp

/-- The accumulator after an iteration, counted from the loop's start: one bit more of `v` is used. -/
theorem toNat_mulAcc {u v : Word} {r : Regs} (hl : r.looping) (hm : r.multiplying u v) :
    (mulAcc r).toNat = u.toNat * (v.toNat % 2 ^ (32 - r.cnt.toNat + 1)) := by
  obtain ⟨hacc, hmcand, hmplier⟩ := hm
  obtain ⟨hpos, -⟩ := hl
  generalize hk : 32 - r.cnt.toNat = k at hacc hmcand hmplier ⊢
  have hk31 : k ≤ 31 := by omega
  have hbit : r.mplier.getLsbD 0 = v.toNat.testBit k := by
    rw [hmplier, BitVec.getLsbD_ushiftRight, Nat.add_zero, BitVec.testBit_toNat]
  have hmcand' : r.mcand.toNat = u.toNat * 2 ^ k := by
    rw [hmcand, Nat.mod_eq_of_lt]
    calc u.toNat * 2 ^ k < 2 ^ 32 * 2 ^ 32 :=
          Nat.mul_lt_mul'' u.isLt (Nat.pow_lt_pow_right (by decide) (by omega))
      _ = 2 ^ 64 := by norm_num
  have hsplit : v.toNat % 2 ^ (k + 1) = v.toNat % 2 ^ k + 2 ^ k * (v.toNat.testBit k).toNat := by
    rw [Nat.mod_pow_succ, Nat.toNat_testBit]
  unfold mulAcc
  rw [hbit, hsplit]
  cases v.toNat.testBit k with
  | false => simpa using hacc
  | true =>
    have hfits : r.acc.toNat + r.mcand.toNat < 2 ^ 64 := by
      have hlow : v.toNat % 2 ^ k < 2 ^ k := Nat.mod_lt _ (by positivity)
      have hpow : 2 ^ k ≤ 2 ^ 31 := Nat.pow_le_pow_right (by decide) hk31
      rw [hacc, hmcand', ← Nat.mul_add]
      calc u.toNat * (v.toNat % 2 ^ k + 2 ^ k) < 2 ^ 32 * 2 ^ 32 := Nat.mul_lt_mul'' u.isLt (by omega)
        _ = 2 ^ 64 := by norm_num
    simp only [if_true, BitVec.toNat_add, Nat.mod_eq_of_lt hfits, Bool.toNat_true, Nat.mul_one]
    rw [hacc, hmcand', Nat.mul_add]

/-- 42_multiply.md R82: an iteration keeps the loop invariant. -/
theorem mulStep_multiplying {u v : Word} {r : Regs} (hl : r.looping) (hm : r.multiplying u v) :
    (mulStep r).multiplying u v := by
  have hacc := toNat_mulAcc hl hm
  obtain ⟨-, hmcand, hmplier⟩ := hm
  simp only [Regs.multiplying, mulStep_acc, mulStep_cnt, mulStep_mcand, mulStep_mplier,
    hl.toNat_cnt_sub_one, hl.done_succ]
  refine ⟨hacc, ?_, by rw [hmplier, BitVec.shiftRight_add]⟩
  rw [BitVec.toNat_shiftLeft, hmcand, Nat.shiftLeft_eq, Nat.mod_mul_mod, Nat.mul_assoc, ← Nat.pow_add]

/-- 42_multiply.md R82: in the last iteration the accumulator becomes the product. -/
theorem mulAcc_last {u v : Word} {r : Regs} (hc : r.cnt = 1) (hm : r.multiplying u v) :
    mulAcc r = mulw u v := by
  apply BitVec.eq_of_toNat_eq
  rw [toNat_mulAcc (by simp [Regs.looping, hc]) hm, hc, toNat_mulw]
  exact congrArg _ (Nat.mod_eq_of_lt v.isLt)

end Sys2Proof.Machine

/-! The divider's loop (43_divide.md R92 to R96). -/

namespace Sys2Proof.Machine

/-- `div_init` starts the division of the latched dividend. -/
theorem divInit_dividing {a : Word} {r : Regs} (h : r.xa = a) : (divInit a r).dividing := by
  have hp : a.toNat / 2 ^ 32 = 0 := Nat.div_eq_of_lt a.isLt
  have hcnt : (32 : BitVec 6).toNat = 32 := rfl
  subst h
  simp only [Regs.dividing, divInit_dvd, divInit_xa, divInit_xb, divInit_cnt, divInit_quo, divInit_rem, hcnt, hp]
  refine ⟨by simp, fun hb => ⟨by simp, by simp, ?_⟩, fun _ => ⟨trivial, rfl⟩, by simp⟩
  exact Nat.pos_of_ne_zero fun h0 => hb (BitVec.eq_of_toNat_eq h0)

/-- The dividend bits consumed after one more step: the next bit of the dividend is brought down. -/
theorem div_two_pow_pred (n : Nat) {c : Nat} (hc : 1 ≤ c) :
    n / 2 ^ (c - 1) = 2 * (n / 2 ^ c) + (n.testBit (c - 1)).toNat := by
  have hdiv : n / 2 ^ c = n / 2 ^ (c - 1) / 2 := by
    rw [Nat.div_div_eq_div_mul, ← Nat.pow_succ, Nat.succ_eq_add_one, Nat.sub_add_cancel hc]
  rw [hdiv, Nat.toNat_testBit, Nat.div_add_mod]

/-- Shifting left makes room for one bit at the right. -/
theorem toNat_shiftLeft_one_or_ofBool (v : Word) (b : Bool) :
    ((v <<< 1) ||| (BitVec.ofBool b).setWidth 32).toNat = 2 * v.toNat % 2 ^ 32 + b.toNat := by
  have hbit : ((BitVec.ofBool b).setWidth 32).toNat = b.toNat := by cases b <;> rfl
  have heven : 2 * v.toNat % 2 ^ 32 = 2 ^ 1 * (v.toNat % 2 ^ 31) := by omega
  rw [BitVec.toNat_or, hbit, BitVec.toNat_shiftLeft, Nat.shiftLeft_eq, Nat.mul_comm, pow_one, heven,
    ← Nat.two_pow_add_eq_or_of_lt (by cases b <;> decide)]

/-- 43_divide.md R96: the shift of the running remainder loses no bit. -/
theorem toNat_divShifted {r : Regs} (hl : r.looping) (hd : r.dividing) :
    (divShifted r).toNat = 2 * r.rem.toNat + (r.xa.toNat.testBit (r.cnt.toNat - 1)).toNat := by
  obtain ⟨hdvd, -, -, hrem⟩ := hd
  obtain ⟨hpos, hle⟩ := hl
  have hbit : r.dvd.getLsbD 31 = r.xa.toNat.testBit (r.cnt.toNat - 1) := by
    rw [hdvd, BitVec.getLsbD_shiftLeft, BitVec.testBit_toNat, show 31 - (32 - r.cnt.toNat) = r.cnt.toNat - 1 by omega]
    simp; omega
  have hsmall : r.rem.toNat < 2 ^ 31 := hrem.trans_le (Nat.pow_le_pow_right (by decide) (by omega))
  rw [divShifted, toNat_shiftLeft_one_or_ofBool, hbit, Nat.mod_eq_of_lt (by omega)]

theorem divTake_iff (r : Regs) :
    divTake r = true ↔ r.xb ≠ 0 ∧ r.xb.toNat ≤ (divShifted r).toNat := by
  simp [divTake, BitVec.le_def]

/-- The quotient shifts in whether the divisor was taken; it never has 32 bits before the last step. -/
theorem toNat_divQuo {r : Regs} (hq : r.quo.toNat < 2 ^ 31) :
    (divQuo r).toNat = 2 * r.quo.toNat + (divTake r).toNat := by
  rw [divQuo, toNat_shiftLeft_one_or_ofBool, Nat.mod_eq_of_lt (by omega)]

theorem toNat_divRem (r : Regs) :
    (divRem r).toNat = if divTake r then (divShifted r).toNat - r.xb.toNat else (divShifted r).toNat := by
  unfold divRem
  split
  next htake => exact BitVec.toNat_sub_of_le (BitVec.le_def.2 ((divTake_iff r).1 htake).2)
  next => rfl

/-- 43_divide.md R93, R95: with a nonzero divisor a step extends quotient and remainder by the bit brought
down. -/
theorem divStep_quotient {r : Regs} (hl : r.looping) (hd : r.dividing) (hb : r.xb ≠ 0) :
    (divQuo r).toNat = r.xa.toNat / 2 ^ (r.cnt.toNat - 1) / r.xb.toNat ∧
    (divRem r).toNat = r.xa.toNat / 2 ^ (r.cnt.toNat - 1) % r.xb.toNat ∧
    (divRem r).toNat < r.xb.toNat := by
  have hshift := toNat_divShifted hl hd
  have hnext := div_two_pow_pred r.xa.toNat hl.1
  have htake := divTake_iff r
  have hremainder := toNat_divRem r
  obtain ⟨-, hnz, -, -⟩ := hd
  obtain ⟨hquo, hrem, hlt⟩ := hnz hb
  have hhalf : r.xa.toNat / 2 ^ r.cnt.toNat < 2 ^ 31 := by
    have hpow : 2 ^ 1 ≤ 2 ^ r.cnt.toNat := Nat.pow_le_pow_right (by decide) hl.1
    calc r.xa.toNat / 2 ^ r.cnt.toNat ≤ r.xa.toNat / 2 ^ 1 := Nat.div_le_div_left hpow (by decide)
      _ < 2 ^ 31 := by have := r.xa.isLt; omega
  have hquotient := toNat_divQuo (r := r) (by rw [hquo]; exact (Nat.div_le_self _ _).trans_lt hhalf)
  have hsum := Nat.div_add_mod (r.xa.toNat / 2 ^ r.cnt.toNat) r.xb.toNat
  rw [← hquo, ← hrem] at hsum
  have hpos : 0 < r.xb.toNat := by omega
  have hbit := Bool.toNat_le (r.xa.toNat.testBit (r.cnt.toNat - 1))
  have hdouble : r.xb.toNat * (2 * r.quo.toNat) = 2 * (r.xb.toNat * r.quo.toNat) := Nat.mul_left_comm _ _ _
  suffices h : (divRem r).toNat + r.xb.toNat * (divQuo r).toNat = r.xa.toNat / 2 ^ (r.cnt.toNat - 1) ∧
      (divRem r).toNat < r.xb.toNat by
    obtain ⟨hdiv, hmod⟩ := (Nat.div_mod_unique hpos).2 h
    exact ⟨hdiv.symm, hmod.symm, h.2⟩
  cases ht : divTake r with
  | true =>
    have hle := (htake.1 ht).2
    simp only [ht, if_true, Bool.toNat_true] at hquotient hremainder
    rw [hquotient, Nat.mul_add, hdouble]
    omega
  | false =>
    have hgt : (divShifted r).toNat < r.xb.toNat :=
      not_le.1 fun hle => Bool.false_ne_true (ht.symm.trans (htake.2 ⟨hb, hle⟩))
    simp only [ht, Bool.false_eq_true, if_false, Bool.toNat_false, Nat.add_zero] at hquotient hremainder
    rw [hquotient, hdouble]
    omega

/-- 43_divide.md R94, R95: with a zero divisor the quotient stays 0 and the dividend moves into the
remainder. -/
theorem divStep_zero_divisor {r : Regs} (hl : r.looping) (hd : r.dividing) (hb : r.xb = 0) :
    divQuo r = 0 ∧ (divRem r).toNat = r.xa.toNat / 2 ^ (r.cnt.toNat - 1) := by
  have hshift := toNat_divShifted hl hd
  have htake : divTake r = false := by simp [divTake, hb]
  obtain ⟨-, -, hz, -⟩ := hd
  obtain ⟨hquo, hrem⟩ := hz hb
  have hquotient := toNat_divQuo (r := r) (by simp [hquo])
  constructor
  · apply BitVec.eq_of_toNat_eq
    simpa [htake, hquo] using hquotient
  · rw [toNat_divRem, htake, div_two_pow_pred _ hl.1, ← hrem, ← hshift]
    rfl

/-- 43_divide.md R95: a step keeps the loop invariant. -/
theorem divStep_dividing {r : Regs} (hl : r.looping) (hd : r.dividing) : (divStep r).dividing := by
  have hshift := toNat_divShifted hl hd
  have hremainder := toNat_divRem r
  have hquotient := divStep_quotient hl hd
  have hzero := divStep_zero_divisor hl hd
  obtain ⟨hdvd, -, -, hrem⟩ := hd
  simp only [Regs.dividing, divStep_dvd, divStep_xa, divStep_xb, divStep_cnt, divStep_quo, divStep_rem,
    hl.toNat_cnt_sub_one]
  refine ⟨by rw [hdvd, hl.done_succ, BitVec.shiftLeft_add], hquotient, hzero, ?_⟩
  have hbit := Bool.toNat_le (r.xa.toNat.testBit (r.cnt.toNat - 1))
  have hle : (divRem r).toNat ≤ (divShifted r).toNat := by rw [hremainder]; split <;> omega
  rw [hl.done_succ, Nat.pow_succ]
  omega

/-- 43_divide.md R94: what the last step hands to `complete` is the quotient and the remainder. -/
theorem divrem_last {r : Regs} (hc : r.cnt = 1) (hd : r.dividing) :
    (divQuo r, if r.xb = 0 then 0 else divRem r) = divrem r.xa r.xb := by
  have hl : r.looping := by simp [Regs.looping, hc]
  have hcnt : r.xa.toNat / 2 ^ (r.cnt.toNat - 1) = r.xa.toNat := by simp [hc]
  unfold divrem
  split
  next hb => rw [(divStep_zero_divisor hl hd hb).1]
  next hb =>
    obtain ⟨hquo, hrem, -⟩ := divStep_quotient hl hd hb
    rw [hcnt] at hquo hrem
    rw [← hquo, ← hrem, BitVec.ofNat_toNat, BitVec.ofNat_toNat, BitVec.setWidth_eq, BitVec.setWidth_eq]

end Sys2Proof.Machine

/-! Who writes which register (10_state.md R21 to R28): frames of the run step and of the accept step. -/

namespace Sys2Proof.Machine

/-- What an accept step latches (10_state.md R21, R24). -/
abbrev Regs.latched (r : Regs) : OpCode × Word × Word := (r.opr, r.xa, r.xb)

/-- The multiplier's own registers (10_state.md R26). -/
abbrev Regs.multiplier (r : Regs) : DWord × DWord × Word := (r.acc, r.mcand, r.mplier)

/-- The divider's own registers (10_state.md R27). -/
abbrev Regs.divider (r : Regs) : Word × Word × Word := (r.rem, r.quo, r.dvd)

/-- The estimator's own registers (10_state.md R24, R28). -/
abbrev Regs.estimator (r : Regs) : BitVec 3 × Bool × Word × Word := (r.ph, r.iter, r.y, r.t)

/-- The block has just completed a command. -/
abbrev Regs.completed (r : Regs) : Prop := r.busy = false ∧ r.done = true

/-- `RSQRT` uses the multiplier and its own registers: operands and divider stay. -/
theorem runRsqrt_frame (seed : SeedTable) (r : Regs) :
    (runRsqrt seed r).latched = r.latched ∧ (runRsqrt seed r).divider = r.divider := by
  rcases runRsqrt_cases seed r with ⟨-, h⟩ | ⟨-, h⟩ | ⟨-, h⟩ | ⟨-, h⟩ | ⟨-, h⟩ | ⟨-, h⟩ <;> rw [h]
  · unfold rsqrtPhase0; split_ifs <;> exact ⟨rfl, rfl⟩
  · unfold rsqrtPhase1; split_ifs <;> exact ⟨rfl, rfl⟩
  · unfold rsqrtPhase2; split_ifs <;> exact ⟨rfl, rfl⟩
  · unfold rsqrtPhase3; split_ifs <;> exact ⟨rfl, rfl⟩
  · unfold rsqrtPhase4; split_ifs <;> exact ⟨rfl, rfl⟩
  · exact ⟨rfl, rfl⟩

/-- A run step of `RSQRT` shows nothing new unless it completes. -/
theorem runRsqrt_observe (seed : SeedTable) (r : Regs) :
    (runRsqrt seed r).observe = r.observe ∨ (runRsqrt seed r).completed := by
  rcases runRsqrt_cases seed r with ⟨-, h⟩ | ⟨-, h⟩ | ⟨-, h⟩ | ⟨-, h⟩ | ⟨-, h⟩ | ⟨-, h⟩ <;> rw [h]
  · unfold rsqrtPhase0
    split_ifs
    · exact .inr ⟨rfl, rfl⟩
    · exact .inr ⟨rfl, rfl⟩
    · exact .inl rfl
    · exact .inl rfl
  · unfold rsqrtPhase1; split_ifs <;> exact .inl rfl
  · unfold rsqrtPhase2; split_ifs <;> exact .inl rfl
  · unfold rsqrtPhase3; split_ifs <;> exact .inl rfl
  · unfold rsqrtPhase4
    split_ifs
    · exact .inr ⟨rfl, rfl⟩
    · exact .inl rfl
    · exact .inl rfl
  · exact .inl rfl

/-- 40_sequencer.md R66: a run step leaves the outputs as they are, or completes the command. -/
theorem run_observe (seed : SeedTable) (r : Regs) :
    (run seed r).observe = r.observe ∨ (run seed r).completed := by
  rcases run_cases seed r with ⟨-, h⟩ | ⟨-, h⟩ | ⟨-, h⟩ | ⟨-, h⟩ | ⟨-, h⟩ | ⟨-, h⟩ <;> rw [h]
  · exact .inr ⟨rfl, rfl⟩
  · unfold runMulw; split
    · exact .inr ⟨rfl, rfl⟩
    · exact .inl rfl
  · unfold runMul; split
    · exact .inr ⟨rfl, rfl⟩
    · exact .inl rfl
  · unfold runDivrem; split
    · exact .inr ⟨rfl, rfl⟩
    · exact .inl rfl
  · exact runRsqrt_observe seed r
  · exact .inl rfl

/-- 40_sequencer.md R67: no run step changes the latched command. -/
theorem run_latched (seed : SeedTable) (r : Regs) : (run seed r).latched = r.latched := by
  rcases run_cases seed r with ⟨-, h⟩ | ⟨-, h⟩ | ⟨-, h⟩ | ⟨-, h⟩ | ⟨-, h⟩ | ⟨-, h⟩ <;> rw [h]
  · rfl
  · unfold runMulw; split <;> rfl
  · unfold runMul; split <;> rfl
  · unfold runDivrem; split <;> rfl
  · exact (runRsqrt_frame seed r).1

@[simp] theorem run_opr (seed : SeedTable) (r : Regs) : (run seed r).opr = r.opr :=
  congrArg Prod.fst (run_latched seed r)
@[simp] theorem run_xa (seed : SeedTable) (r : Regs) : (run seed r).xa = r.xa :=
  congrArg (fun l => l.2.1) (run_latched seed r)
@[simp] theorem run_xb (seed : SeedTable) (r : Regs) : (run seed r).xb = r.xb :=
  congrArg (fun l => l.2.2) (run_latched seed r)

/-- 10_state.md R27: only `DIVREM` runs the divider. -/
theorem run_divider (seed : SeedTable) {r : Regs} (hne : r.opr ≠ 3) :
    (run seed r).divider = r.divider := by
  rcases run_cases seed r with ⟨-, h⟩ | ⟨-, h⟩ | ⟨-, h⟩ | ⟨h3, -⟩ | ⟨-, h⟩ | ⟨-, h⟩
  · rw [h]; rfl
  · rw [h]; unfold runMulw; split <;> rfl
  · rw [h]; unfold runMul; split <;> rfl
  · exact absurd h3 hne
  · rw [h]; exact (runRsqrt_frame seed r).2
  · rw [h]

/-- 10_state.md R26, 43_divide.md R97: neither `CLZ` nor `DIVREM` runs the multiplier. -/
theorem run_multiplier (seed : SeedTable) {r : Regs} (hop : r.opr = 0 ∨ r.opr = 3) :
    (run seed r).multiplier = r.multiplier := by
  rcases hop with h | h
  · rw [run_clz seed h]; rfl
  · rw [run_divrem seed h]; unfold runDivrem; split <;> rfl

/-- 10_state.md R28: only `RSQRT` runs the estimator. -/
theorem run_estimator (seed : SeedTable) {r : Regs} (hne : r.opr ≠ 4) :
    (run seed r).estimator = r.estimator := by
  rcases run_cases seed r with ⟨-, h⟩ | ⟨-, h⟩ | ⟨-, h⟩ | ⟨-, h⟩ | ⟨h4, -⟩ | ⟨-, h⟩
  · rw [h]; rfl
  · rw [h]; unfold runMulw; split <;> rfl
  · rw [h]; unfold runMul; split <;> rfl
  · rw [h]; unfold runDivrem; split <;> rfl
  · exact absurd h4 hne
  · rw [h]

/-! The accept step. -/

theorem Instr.op_le_four (i : Instr) : i.op.toNat ≤ 4 := by cases i <;> simp [Instr.op]

/-! What every accept step does, whatever the operation (40_sequencer.md R63). -/

@[simp] theorem acceptOf_opr (i : Instr) (r : Regs) : (acceptOf i r).opr = i.op := by cases i <;> rfl
@[simp] theorem acceptOf_xa (i : Instr) (r : Regs) : (acceptOf i r).xa = i.a := by cases i <;> rfl
@[simp] theorem acceptOf_xb (i : Instr) (r : Regs) : (acceptOf i r).xb = i.b := by cases i <;> rfl
@[simp] theorem acceptOf_busy (i : Instr) (r : Regs) : (acceptOf i r).busy = true := by cases i <;> rfl
@[simp] theorem acceptOf_done (i : Instr) (r : Regs) : (acceptOf i r).done = false := by cases i <;> rfl
@[simp] theorem acceptOf_r0 (i : Instr) (r : Regs) : (acceptOf i r).r0 = r.r0 := by cases i <;> rfl
@[simp] theorem acceptOf_r1 (i : Instr) (r : Regs) : (acceptOf i r).r1 = r.r1 := by cases i <;> rfl
@[simp] theorem acceptOf_y (i : Instr) (r : Regs) : (acceptOf i r).y = r.y := by cases i <;> rfl
@[simp] theorem acceptOf_t (i : Instr) (r : Regs) : (acceptOf i r).t = r.t := by cases i <;> rfl

/-! And what only the accept step of one operation does. -/

theorem acceptOf_divider {i : Instr} (r : Regs) (h : i.op ≠ 3) : (acceptOf i r).divider = r.divider := by
  cases i with
  | divrem a b => exact absurd rfl h
  | _ => rfl

theorem acceptOf_multiplier {i : Instr} (r : Regs) (h1 : i.op ≠ 1) (h2 : i.op ≠ 2) :
    (acceptOf i r).multiplier = r.multiplier := by
  cases i with
  | mulw a b => exact absurd rfl h1
  | mul a b => exact absurd rfl h2
  | _ => rfl

theorem acceptOf_phase {i : Instr} (r : Regs) (h : i.op ≠ 4) :
    ((acceptOf i r).ph, (acceptOf i r).iter) = (r.ph, r.iter) := by
  cases i with
  | rsqrt a b => exact absurd rfl h
  | _ => rfl

/-! The inputs that offer a command. -/

theorem decodeCommand_legal {op : OpCode} (a b : Word) (h : op.toNat ≤ 4) :
    ∃ i, decodeCommand op a b = .ok i := by
  have hop : ∀ o : OpCode, o.toNat ≤ 4 → o = 0 ∨ o = 1 ∨ o = 2 ∨ o = 3 ∨ o = 4 := by decide
  rcases hop op h with rfl | rfl | rfl | rfl | rfl <;> exact ⟨_, rfl⟩

theorem Input.ports_of_offered {inp : Input} {i : Instr} (h : inp.offered = some i) :
    i.op = inp.op ∧ i.a = inp.a ∧ i.b = inp.b :=
  decodeCommand_ok (Input.offered_eq_some h).2

/-- 40_sequencer.md R63: an offer is `start = 1` with a legal code. -/
theorem Input.offered_ne_none_iff (inp : Input) :
    inp.offered ≠ none ↔ inp.start = true ∧ inp.op.toNat ≤ 4 := by
  constructor
  · intro h
    obtain ⟨i, hi⟩ := Option.ne_none_iff_exists'.1 h
    exact ⟨(Input.offered_eq_some hi).1, (Input.ports_of_offered hi).1 ▸ Instr.op_le_four i⟩
  · rintro ⟨hstart, hop⟩
    obtain ⟨i, hi⟩ := decodeCommand_legal inp.a inp.b hop
    simp [Input.offered_of_ok hstart hi]

end Sys2Proof.Machine

/-! The statements about who writes what, and about reset. -/

namespace Sys2Proof.Machine

/-- Settles O51, by the four kinds of step. -/
theorem operandAndResultWriters : Obligations.OperandAndResultWriters := by
  unfold Obligations.OperandAndResultWriters
  intro s t h
  rcases step_cases h with ⟨hr, -⟩ | ⟨-, hb, rfl⟩ | ⟨-, hb, i, hi, rfl⟩ | ⟨-, -, -, rfl⟩
  · exact ⟨fun _ => .inl hr, fun _ => .inl hr⟩
  · refine ⟨fun hne => absurd (by simp) hne, fun hne => .inr ⟨hb, ?_⟩⟩
    rcases run_observe s.seed s.regs with hobs | hdone
    · exact absurd (congrArg (fun o => (o.r0, o.r1)) hobs) hne
    · exact hdone
  · obtain ⟨-, ha, hxb⟩ := Input.ports_of_offered hi
    exact ⟨fun _ => .inr ⟨hb, by simp [hi], by simp [ha], by simp [hxb]⟩, fun hne => absurd (by simp) hne⟩
  · exact ⟨fun hne => absurd (by simp) hne, fun hne => absurd (by simp) hne⟩

/-- Settles O52: the frames of the run step and of the accept step, put together. -/
theorem datapathsAreSeparate : Obligations.DatapathsAreSeparate := by
  unfold Obligations.DatapathsAreSeparate
  intro s t h hrst
  rcases step_cases h with ⟨hr, -⟩ | ⟨-, hb, rfl⟩ | ⟨-, hb, i, hi, rfl⟩ | ⟨-, hb, -, rfl⟩
  · exact absurd hr (by simp [hrst])
  · refine ⟨fun _ => ⟨?_, run_divider _, run_multiplier _, run_estimator _, fun h0 => ?_⟩, fun hidle => ?_⟩
    · exact run_opr s.seed s.regs
    · rw [State.withRegs_regs, run_clz s.seed h0]; rfl
    · exact absurd hb (by simp [hidle])
  · obtain ⟨hop, -, -⟩ := Input.ports_of_offered hi
    refine ⟨fun hbusy => absurd hb (by simp [hbusy]), fun _ => ?_⟩
    rw [← hop]
    exact ⟨by simp, acceptOf_divider _, acceptOf_multiplier _, acceptOf_phase _⟩
  · refine ⟨fun hbusy => absurd hb (by simp [hbusy]), fun _ => ?_⟩
    simp

/-- Settles O53, by the four kinds of step. -/
theorem flagsChangeOnlyByTheRules : Obligations.FlagsChangeOnlyByTheRules := by
  unfold Obligations.FlagsChangeOnlyByTheRules
  intro s t h
  rw [← Input.offered_ne_none_iff]
  rcases step_cases h with ⟨hr, rfl⟩ | ⟨hr, hb, rfl⟩ | ⟨hr, hb, i, hi, rfl⟩ | ⟨hr, hb, hnone, rfl⟩
  · simp [hr, Regs.reset]
  · have hflags : (run s.seed s.regs).busy = true ∧ (run s.seed s.regs).done = s.regs.done ∨
        (run s.seed s.regs).completed := by
      rcases run_observe s.seed s.regs with hobs | hdone
      · exact .inl ⟨(congrArg Observation.busy hobs).trans hb, congrArg Observation.done hobs⟩
      · exact .inr hdone
    rcases hflags with ⟨hbusy, hkept⟩ | ⟨hidle, hdone⟩
    · simp [hr, hb, hbusy, hkept]
    · simp [hr, hb, hidle, hdone]
  · simp [hr, hb, hi]
  · simp [hr, hb, hnone]

/-- Settles O10: `rst` wins in the step's cascade. -/
theorem resetClearsEveryRegister : Obligations.ResetClearsEveryRegister := by
  unfold Obligations.ResetClearsEveryRegister
  refine ⟨fun s inp hrst => ⟨s.withRegs Regs.reset, ?_, rfl, rfl, rfl⟩, rfl⟩
  rw [step_eq, State.ports_drive, State.sampled_drive, if_pos hrst]

end Sys2Proof.Machine

/-! The machine's invariant (10_state.md R32): how a state comes to have it. -/

namespace Sys2Proof.Machine

/-! The command in `OPR`, `XA`, `XB`. -/

theorem command_clz {r : Regs} (h : r.opr = 0) : r.command = some (.clz r.xa r.xb) := by
  unfold Regs.command; rw [h]; rfl
theorem command_mulw {r : Regs} (h : r.opr = 1) : r.command = some (.mulw r.xa r.xb) := by
  unfold Regs.command; rw [h]; rfl
theorem command_mul {r : Regs} (h : r.opr = 2) : r.command = some (.mul r.xa r.xb) := by
  unfold Regs.command; rw [h]; rfl
theorem command_divrem {r : Regs} (h : r.opr = 3) : r.command = some (.divrem r.xa r.xb) := by
  unfold Regs.command; rw [h]; rfl
theorem command_rsqrt {r : Regs} (h : r.opr = 4) : r.command = some (.rsqrt r.xa r.xb) := by
  unfold Regs.command; rw [h]; rfl

/-! Ranges. -/

/-- The control registers are in range (10_state.md R32 item 2). -/
abbrev Regs.controlInRange (r : Regs) : Prop := r.opr.toNat ≤ 4 ∧ r.ph.toNat ≤ 4 ∧ r.cnt.toNat ≤ 32

theorem Regs.wellRun.control {seed : SeedTable} {r : Regs} (h : r.wellRun seed) : r.controlInRange := by
  obtain ⟨⟨-, hcontrol⟩, -⟩ := h
  exact hcontrol

theorem Regs.wellRun.not_done {seed : SeedTable} {r : Regs} (h : r.wellRun seed) (hb : r.busy = true) :
    r.done = false := by
  obtain ⟨⟨hflags, -⟩, -⟩ := h
  exact Bool.eq_false_iff.2 fun hd => hflags ⟨hb, hd⟩

/-- A completion gives the invariant when it shows the result of the command in the registers. -/
theorem complete_wellRun {seed : SeedTable} {r : Regs} {i : Instr} {lo hi : Word} (hc : r.controlInRange)
    (hcmd : r.command = some i) (hres : result seed i = (lo, hi)) : (complete lo hi r).wellRun seed := by
  obtain ⟨hop, hph, hcnt⟩ := hc
  have hcommand : (complete lo hi r).command = some i := hcmd
  simp [Regs.wellRun, Regs.inRange, hop, hph, hcnt, hcommand, hres]

/-- A block with nothing to show has the invariant when the loop of its operation is under way. -/
theorem wellRun_of_loop {seed : SeedTable} {r : Regs} (hd : r.done = false)
    (hc : r.controlInRange) (hmul : r.opr = 1 ∨ r.opr = 2 → r.looping ∧ r.multiplying r.xa r.xb)
    (hdiv : r.opr = 3 → r.looping ∧ r.dividing) (hest : r.opr = 4 → r.estimating seed) :
    r.wellRun seed :=
  ⟨⟨by simp [hd], hc⟩, fun _ => hmul, fun _ => hdiv, fun _ => hest, by simp [hd]⟩

theorem wellRun_of_multiplying {seed : SeedTable} {r : Regs} (hd : r.done = false)
    (hc : r.controlInRange) (hop : r.opr = 1 ∨ r.opr = 2) (hl : r.looping) (hm : r.multiplying r.xa r.xb) :
    r.wellRun seed := by
  refine wellRun_of_loop hd hc (fun _ => ⟨hl, hm⟩) ?_ ?_ <;> rcases hop with h | h <;> simp [h]

theorem wellRun_of_dividing {seed : SeedTable} {r : Regs} (hd : r.done = false)
    (hc : r.controlInRange) (hop : r.opr = 3) (hl : r.looping) (hdiv : r.dividing) : r.wellRun seed :=
  wellRun_of_loop hd hc (by simp [hop]) (fun _ => ⟨hl, hdiv⟩) (by simp [hop])

theorem wellRun_of_estimating {seed : SeedTable} {r : Regs} (hd : r.done = false)
    (hc : r.controlInRange) (hop : r.opr = 4) (hest : r.estimating seed) : r.wellRun seed :=
  wellRun_of_loop hd hc (by simp [hop]) (by simp [hop]) (fun _ => hest)

/-! The estimator's invariant, phase by phase. -/

theorem estimating_phase0 {seed : SeedTable} {r : Regs} (h : r.ph = 0) :
    r.estimating seed ↔ r.iter = false := by
  simp [Regs.estimating, h]

theorem estimating_phase1 {seed : SeedTable} {r : Regs} (h : r.ph = 1) :
    r.estimating seed ↔ (2 ≤ r.xa.toNat ∧ r.looping) ∧ r.iter = false ∧
      2 ^ (exponentOf r.xa).val < r.xa.toNat ∧ r.y = romRead seed (exponentOf r.xa) ∧
      r.multiplying (seedDelta seed r.xa) (fractionOf r.xa) := by
  simp [Regs.estimating, h]

theorem estimating_phase2 {seed : SeedTable} {r : Regs} (h : r.ph = 2) :
    r.estimating seed ↔ (2 ≤ r.xa.toNat ∧ r.looping) ∧ r.y = estimateIn seed r ∧ r.multiplying r.y r.y := by
  simp [Regs.estimating, h]

theorem estimating_phase3 {seed : SeedTable} {r : Regs} (h : r.ph = 3) :
    r.estimating seed ↔ (2 ≤ r.xa.toNat ∧ r.looping) ∧ r.y = estimateIn seed r ∧
      r.t = newtonSquare r.y ∧ r.multiplying r.xa r.t := by
  simp [Regs.estimating, h]

theorem estimating_phase4 {seed : SeedTable} {r : Regs} (h : r.ph = 4) :
    r.estimating seed ↔ (2 ≤ r.xa.toNat ∧ r.looping) ∧ r.y = estimateIn seed r ∧
      r.t = newtonFactor r.xa (newtonSquare r.y) ∧ r.multiplying r.y r.t := by
  simp [Regs.estimating, h]

/-- In any product phase an iteration before the last keeps the estimator's invariant. -/
theorem mulStep_estimating {seed : SeedTable} {r : Regs} (hph : r.ph ≠ 0) (hne : r.cnt ≠ 1)
    (h : r.estimating seed) : (mulStep r).estimating seed := by
  obtain ⟨h0, hloop, h1, h2, h3, h4⟩ := h
  obtain ⟨hx, hl⟩ := hloop hph
  refine ⟨h0, fun _ => ⟨hx, hl.sub_one hne⟩, fun hp => ?_, fun hp => ?_, fun hp => ?_, fun hp => ?_⟩
  · obtain ⟨hiter, hlt, hy, hm⟩ := h1 hp
    exact ⟨hiter, hlt, hy, mulStep_multiplying hl hm⟩
  · obtain ⟨hy, hm⟩ := h2 hp
    exact ⟨hy, mulStep_multiplying hl hm⟩
  · obtain ⟨hy, ht, hm⟩ := h3 hp
    exact ⟨hy, ht, mulStep_multiplying hl hm⟩
  · obtain ⟨hy, ht, hm⟩ := h4 hp
    exact ⟨hy, ht, mulStep_multiplying hl hm⟩

/-! The function level, as the phases compute it. -/

theorem two_le_toNat {x : Word} (h0 : x ≠ 0) (h1 : x ≠ 1) : 2 ≤ x.toNat := by bv_omega

/-- 44_rsqrt.md R104: from 2 on the result is the second Newton iterate. -/
theorem result_rsqrt {seed : SeedTable} {a : Word} (b : Word) (h : 2 ≤ a.toNat) :
    result seed (.rsqrt a b) = (newton a (newton a (initialEstimate seed a)), 0) := by
  have h0 : a ≠ 0 := by rintro rfl; simp at h
  have h1 : a ≠ 1 := by rintro rfl; simp at h
  rw [result, rsqrt, if_neg h0, if_neg h1]

theorem initialEstimate_interpolated {seed : SeedTable} {x : Word} (h : 2 ^ (exponentOf x).val < x.toNat) :
    initialEstimate seed x =
      romRead seed (exponentOf x) - loWord (mulw (seedDelta seed x) (fractionOf x)) >>> 16 := by
  rw [initialEstimate, if_pos h, mul_eq_loWord_mulw]

theorem initialEstimate_power {seed : SeedTable} {x : Word} (h : x.toNat = 2 ^ (exponentOf x).val) :
    initialEstimate seed x = romRead seed (exponentOf x) := by
  rw [initialEstimate, if_neg (by omega)]

theorem estimateIn_first {seed : SeedTable} {r : Regs} (h : r.iter = false) :
    estimateIn seed r = initialEstimate seed r.xa := by
  simp [estimateIn, h]

theorem estimateIn_second {seed : SeedTable} {r : Regs} (h : r.iter = true) :
    estimateIn seed r = newton r.xa (initialEstimate seed r.xa) := by
  simp [estimateIn, h]

end Sys2Proof.Machine

/-! Every run step keeps the invariant, operation by operation and phase by phase. -/

namespace Sys2Proof.Machine

section
variable {seed : SeedTable} {r : Regs}

/-- After an iteration the counter is still in range. -/
theorem controlInRange_of_decrement {q : Regs} (hc : r.controlInRange) (hl : r.looping) (hop : q.opr = r.opr)
    (hph : q.ph = r.ph) (hcnt : q.cnt = r.cnt - 1) : q.controlInRange := by
  have hsub := hl.toNat_cnt_sub_one
  obtain ⟨ho, hp, hn⟩ := hc
  exact ⟨hop ▸ ho, hph ▸ hp, by rw [hcnt]; omega⟩

theorem runClz_wellRun (h : r.wellRun seed) (hop : r.opr = 0) : (runClz r).wellRun seed :=
  complete_wellRun h.control (command_clz hop) rfl

/-- `MULW` and `MUL` differ only in the words they complete with. -/
theorem multiply_wellRun {i : Instr} {lo hi : Word} (h : r.wellRun seed) (hb : r.busy = true)
    (hop : r.opr = 1 ∨ r.opr = 2) (hcmd : r.command = some i)
    (hres : mulAcc r = mulw r.xa r.xb → result seed i = (lo, hi)) :
    (if lastIteration r then complete lo hi (mulStep r) else mulStep r).wellRun seed := by
  have hcontrol := h.control
  have hnot := h.not_done hb
  obtain ⟨-, hmul, -⟩ := h
  obtain ⟨hl, hm⟩ := hmul hb hop
  have hcontrol' : (mulStep r).controlInRange := controlInRange_of_decrement hcontrol hl rfl rfl rfl
  split
  next hlast =>
    exact complete_wellRun hcontrol' hcmd (hres (mulAcc_last ((lastIteration_iff r).1 hlast) hm))
  next hmore =>
    rw [lastIteration_iff] at hmore
    exact wellRun_of_multiplying hnot hcontrol' hop (hl.sub_one hmore) (mulStep_multiplying hl hm)

theorem runMulw_wellRun (h : r.wellRun seed) (hb : r.busy = true) (hop : r.opr = 1) :
    (runMulw r).wellRun seed :=
  multiply_wellRun h hb (.inl hop) (command_mulw hop) fun hacc => by rw [hacc]; rfl

theorem runMul_wellRun (h : r.wellRun seed) (hb : r.busy = true) (hop : r.opr = 2) :
    (runMul r).wellRun seed :=
  multiply_wellRun h hb (.inr hop) (command_mul hop) fun hacc => by rw [hacc, ← mul_eq_loWord_mulw]; rfl

theorem runDivrem_wellRun (h : r.wellRun seed) (hb : r.busy = true) (hop : r.opr = 3) :
    (runDivrem r).wellRun seed := by
  have hcontrol := h.control
  have hnot := h.not_done hb
  obtain ⟨-, -, hdiv, -⟩ := h
  obtain ⟨hl, hd⟩ := hdiv hb hop
  have hcontrol' : (divStep r).controlInRange := controlInRange_of_decrement hcontrol hl rfl rfl rfl
  unfold runDivrem
  split
  next hlast =>
    exact complete_wellRun hcontrol' (command_divrem hop)
      (divrem_last ((lastIteration_iff r).1 hlast) hd).symm
  next hmore =>
    rw [lastIteration_iff] at hmore
    exact wellRun_of_dividing hnot hcontrol' hop (hl.sub_one hmore) (divStep_dividing hl hd)

/-- What a phase may rely on: the run is one of `RSQRT`, with the estimator's invariant. -/
structure Regs.rsqrtRunning (seed : SeedTable) (r : Regs) : Prop where
  busy : r.busy = true
  notDone : r.done = false
  opr : r.opr = 4
  control : r.controlInRange
  estimating : r.estimating seed

theorem Regs.rsqrtRunning.wellRun (h : r.rsqrtRunning seed) : r.wellRun seed :=
  wellRun_of_estimating h.notDone h.control h.opr h.estimating

/-- The closing action of a phase loads the counter and sets the next phase. -/
theorem Regs.rsqrtRunning.enterPhase {q : Regs} (h : r.rsqrtRunning seed) (hd : q.done = r.done)
    (ho : q.opr = r.opr) (hc : q.cnt = 32) (hp : q.ph.toNat ≤ 4) (hest : q.estimating seed) : q.wellRun seed :=
  wellRun_of_estimating (hd.trans h.notDone) ⟨ho ▸ h.control.1, hp, by simp [hc]⟩ (ho.trans h.opr) hest

/-- In a product phase every iteration before the last is a `mul_step` that keeps the invariant. -/
theorem Regs.rsqrtRunning.mulStep_wellRun (h : r.rsqrtRunning seed) (hph : r.ph ≠ 0)
    (hmore : ¬ lastIteration r = true) : (mulStep r).wellRun seed := by
  rw [lastIteration_iff] at hmore
  obtain ⟨-, hloop, -⟩ := h.estimating
  obtain ⟨-, hl⟩ := hloop hph
  exact wellRun_of_estimating h.notDone (controlInRange_of_decrement h.control hl rfl rfl rfl) h.opr
    (mulStep_estimating hph hmore h.estimating)

/-- 44_rsqrt.md R110. -/
theorem rsqrtPhase0_wellRun (h : r.rsqrtRunning seed) (hph : r.ph = 0) : (rsqrtPhase0 seed r).wellRun seed := by
  have hiter := (estimating_phase0 hph).1 h.estimating
  unfold rsqrtPhase0
  split_ifs with hzero hone hpower
  · exact complete_wellRun h.control (command_rsqrt h.opr) (by simp [result, rsqrt, hzero])
  · exact complete_wellRun h.control (command_rsqrt h.opr) (by simp [result, rsqrt, hone])
  · have hle := (exponentOf_bounds hzero).1
    refine h.enterPhase rfl rfl rfl (by simp)
      ((estimating_phase1 rfl).2 ⟨⟨two_le_toNat hzero hone, looping_of_loaded rfl⟩, hiter, ?_, rfl, ?_⟩)
    · exact lt_of_le_of_ne hle (Ne.symm hpower)
    · exact mulInit_multiplying _ _ r
  · rw [not_not] at hpower
    refine h.enterPhase rfl rfl rfl (by simp)
      ((estimating_phase2 rfl).2 ⟨⟨two_le_toNat hzero hone, looping_of_loaded rfl⟩, ?_, ?_⟩)
    · exact ((estimateIn_first hiter).trans (initialEstimate_power hpower)).symm
    · exact mulInit_multiplying _ _ r

/-- 44_rsqrt.md R111. -/
theorem rsqrtPhase1_wellRun (h : r.rsqrtRunning seed) (hph : r.ph = 1) : (rsqrtPhase1 r).wellRun seed := by
  obtain ⟨⟨hx, -⟩, hiter, hlt, hy, hm⟩ := (estimating_phase1 hph).1 h.estimating
  unfold rsqrtPhase1
  split
  next hlast =>
    refine h.enterPhase rfl rfl rfl (by simp)
      ((estimating_phase2 rfl).2 ⟨⟨hx, looping_of_loaded rfl⟩, ?_, mulInit_multiplying _ _ (mulStep r)⟩)
    refine Eq.trans ?_ (estimateIn_first hiter).symm
    rw [initialEstimate_interpolated hlt, ← hy, ← mulAcc_last ((lastIteration_iff r).1 hlast) hm]
  next hmore => exact h.mulStep_wellRun (by simp [hph]) hmore

/-- 44_rsqrt.md R112. -/
theorem rsqrtPhase2_wellRun (h : r.rsqrtRunning seed) (hph : r.ph = 2) : (rsqrtPhase2 r).wellRun seed := by
  obtain ⟨⟨hx, -⟩, hy, hm⟩ := (estimating_phase2 hph).1 h.estimating
  unfold rsqrtPhase2
  split
  next hlast =>
    refine h.enterPhase rfl rfl rfl (by simp)
      ((estimating_phase3 rfl).2
        ⟨⟨hx, looping_of_loaded rfl⟩, hy, ?_, mulInit_multiplying _ _ (mulStep r)⟩)
    exact congrArg loWord (mulAcc_last ((lastIteration_iff r).1 hlast) hm)
  next hmore => exact h.mulStep_wellRun (by simp [hph]) hmore

/-- 44_rsqrt.md R113. -/
theorem rsqrtPhase3_wellRun (h : r.rsqrtRunning seed) (hph : r.ph = 3) : (rsqrtPhase3 r).wellRun seed := by
  obtain ⟨⟨hx, -⟩, hy, ht, hm⟩ := (estimating_phase3 hph).1 h.estimating
  unfold rsqrtPhase3
  split
  next hlast =>
    refine h.enterPhase rfl rfl rfl (by simp)
      ((estimating_phase4 rfl).2
        ⟨⟨hx, looping_of_loaded rfl⟩, hy, ?_, mulInit_multiplying _ _ (mulStep r)⟩)
    have hlastAcc := mulAcc_last ((lastIteration_iff r).1 hlast) hm
    rw [ht] at hlastAcc
    exact congrArg (Config.fixedThree - rescale16 ·) hlastAcc
  next hmore => exact h.mulStep_wellRun (by simp [hph]) hmore

/-- 44_rsqrt.md R114. -/
theorem rsqrtPhase4_wellRun (h : r.rsqrtRunning seed) (hph : r.ph = 4) : (rsqrtPhase4 r).wellRun seed := by
  obtain ⟨⟨hx, hl⟩, hy, ht, hm⟩ := (estimating_phase4 hph).1 h.estimating
  unfold rsqrtPhase4
  split
  next hlast =>
    have hnew : rescale17 (mulAcc r) = newton r.xa (estimateIn seed r) := by
      rw [mulAcc_last ((lastIteration_iff r).1 hlast) hm, ht, ← hy]; rfl
    cases hiter : r.iter with
    | true =>
      refine complete_wellRun (controlInRange_of_decrement h.control hl rfl rfl rfl) (command_rsqrt h.opr) ?_
      refine (result_rsqrt r.xb hx).trans ?_
      rw [hnew, estimateIn_second hiter]
    | false =>
      refine h.enterPhase rfl rfl rfl (by simp)
        ((estimating_phase2 rfl).2 ⟨⟨hx, looping_of_loaded rfl⟩, ?_, mulInit_multiplying _ _ (mulStep r)⟩)
      exact hnew.trans (congrArg (newton r.xa) (estimateIn_first hiter))
  next hmore => exact h.mulStep_wellRun (by simp [hph]) hmore

theorem runRsqrt_wellRun (h : r.wellRun seed) (hb : r.busy = true) (hop : r.opr = 4) :
    (runRsqrt seed r).wellRun seed := by
  obtain ⟨-, -, -, hest, -⟩ := id h
  have hrun : r.rsqrtRunning seed := ⟨hb, h.not_done hb, hop, h.control, hest hb hop⟩
  rcases runRsqrt_cases seed r with ⟨hp, hq⟩ | ⟨hp, hq⟩ | ⟨hp, hq⟩ | ⟨hp, hq⟩ | ⟨hp, hq⟩ | ⟨-, hq⟩ <;> rw [hq]
  · exact rsqrtPhase0_wellRun hrun hp
  · exact rsqrtPhase1_wellRun hrun hp
  · exact rsqrtPhase2_wellRun hrun hp
  · exact rsqrtPhase3_wellRun hrun hp
  · exact rsqrtPhase4_wellRun hrun hp
  · exact h

/-- 10_state.md R32: every run step keeps the invariant. -/
theorem run_wellRun (h : r.wellRun seed) (hb : r.busy = true) : (run seed r).wellRun seed := by
  rcases run_cases seed r with ⟨ho, hq⟩ | ⟨ho, hq⟩ | ⟨ho, hq⟩ | ⟨ho, hq⟩ | ⟨ho, hq⟩ | ⟨-, hq⟩ <;> rw [hq]
  · exact runClz_wellRun h ho
  · exact runMulw_wellRun h hb ho
  · exact runMul_wellRun h hb ho
  · exact runDivrem_wellRun h hb ho
  · exact runRsqrt_wellRun h hb ho
  · exact h

theorem acceptOf_controlInRange (i : Instr) (h : r.controlInRange) : (acceptOf i r).controlInRange := by
  obtain ⟨-, hph, hcnt⟩ := h
  have hop : (acceptOf i r).opr.toNat ≤ 4 := by rw [acceptOf_opr]; exact Instr.op_le_four i
  cases i with
  | clz a b => exact ⟨hop, hph, hcnt⟩
  | mulw a b => exact ⟨hop, hph, Nat.le_refl 32⟩
  | mul a b => exact ⟨hop, hph, Nat.le_refl 32⟩
  | divrem a b => exact ⟨hop, hph, Nat.le_refl 32⟩
  | rsqrt a b => exact ⟨hop, Nat.zero_le 4, hcnt⟩

/-- 10_state.md R32: every accept step starts its operation's loop with the invariant. -/
theorem acceptOf_wellRun (i : Instr) (h : r.wellRun seed) : (acceptOf i r).wellRun seed := by
  have hcontrol := acceptOf_controlInRange i h.control
  have hd := acceptOf_done i r
  cases i with
  | clz a b =>
    refine wellRun_of_loop hd hcontrol ?_ ?_ ?_ <;> simp [acceptOf, acceptClz]
  | mulw a b =>
    exact wellRun_of_multiplying hd hcontrol (.inl rfl) (looping_of_loaded rfl) (mulInit_multiplying a b _)
  | mul a b =>
    exact wellRun_of_multiplying hd hcontrol (.inr rfl) (looping_of_loaded rfl) (mulInit_multiplying a b _)
  | divrem a b =>
    exact wellRun_of_dividing hd hcontrol rfl (looping_of_loaded rfl) (divInit_dividing rfl)
  | rsqrt a b =>
    exact wellRun_of_estimating hd hcontrol rfl ((estimating_phase0 rfl).2 rfl)

end

/-- 10_state.md R31, R32: with every register 0 the invariant holds, for every table. -/
theorem reset_wellRun (seed : SeedTable) : Regs.reset.wellRun seed := by
  refine ⟨by decide, ?_, ?_, ?_, ?_⟩ <;> exact fun h => absurd h (by decide)

/-- Settles O42: the invariant asks nothing of a block that is idle and has no result to show. -/
theorem resetHasTheInvariant : Obligations.ResetHasTheInvariant := by
  unfold Obligations.ResetHasTheInvariant
  exact ⟨reset_wellRun _, reset_wellRun⟩

/-- Settles O41, by the four kinds of step. -/
theorem everyStepKeepsTheInvariant : Obligations.EveryStepKeepsTheInvariant := by
  unfold Obligations.EveryStepKeepsTheInvariant
  intro s t h hstep
  have hseed := step_seed hstep
  have hregs : t.regs.wellRun s.seed := by
    rcases step_cases hstep with ⟨-, rfl⟩ | ⟨-, hb, rfl⟩ | ⟨-, -, i, -, rfl⟩ | ⟨-, -, -, rfl⟩
    · exact reset_wellRun s.seed
    · exact run_wellRun h hb
    · exact acceptOf_wellRun i h
    · rw [State.sampled_regs]; exact h
  rw [State.wellRun, hseed]
  exact hregs

end Sys2Proof.Machine

/-! Hidden registers (10_state.md R30): two blocks in step with each other agree in every register that the
command in execution still reads, and that is kept by every edge. -/

namespace Sys2Proof.Machine

/-- The two blocks show the same outputs and execute the same command. -/
structure Regs.sameCommand (r q : Regs) : Prop where
  observe : r.observe = q.observe
  opr : r.opr = q.opr
  xa : r.xa = q.xa
  xb : r.xb = q.xb

/-- The two multipliers are at the same point of the same product. -/
structure Regs.sameProduct (r q : Regs) : Prop where
  cnt : r.cnt = q.cnt
  acc : r.acc = q.acc
  mcand : r.mcand = q.mcand
  mplier : r.mplier = q.mplier

/-- The two dividers are at the same point of the same division. -/
structure Regs.sameDivision (r q : Regs) : Prop where
  cnt : r.cnt = q.cnt
  rem : r.rem = q.rem
  quo : r.quo = q.quo
  dvd : r.dvd = q.dvd

/-- The two blocks agree in every register that is still to be read: the outputs of an idle block, and by
operation those of a running one. `T` is never read. -/
inductive Regs.inStep : Regs → Regs → Prop
  | idle {r q : Regs} (hb : r.busy = false) (h : r.observe = q.observe) : Regs.inStep r q
  | clz {r q : Regs} (hop : r.opr = 0) (h : r.sameCommand q) : Regs.inStep r q
  | multiply {r q : Regs} (hop : r.opr = 1 ∨ r.opr = 2) (h : r.sameCommand q) (hp : r.sameProduct q) :
      Regs.inStep r q
  | divide {r q : Regs} (hop : r.opr = 3) (h : r.sameCommand q) (hd : r.sameDivision q) : Regs.inStep r q
  | rsqrtStart {r q : Regs} (hop : r.opr = 4) (h : r.sameCommand q) (hph : r.ph = 0) (hph' : q.ph = 0)
      (hiter : r.iter = q.iter) : Regs.inStep r q
  | rsqrtPhase {r q : Regs} (hop : r.opr = 4) (h : r.sameCommand q) (hph : r.ph ≠ 0) (hph' : r.ph = q.ph)
      (hiter : r.iter = q.iter) (hy : r.y = q.y) (hp : r.sameProduct q) : Regs.inStep r q

section
variable {r q : Regs}

theorem Regs.inStep.observe (h : r.inStep q) : r.observe = q.observe := by
  cases h with
  | idle _ h => exact h
  | clz _ h => exact h.observe
  | multiply _ h _ => exact h.observe
  | divide _ h _ => exact h.observe
  | rsqrtStart _ h _ _ _ => exact h.observe
  | rsqrtPhase _ h _ _ _ _ _ => exact h.observe

theorem Regs.inStep.busy (h : r.inStep q) : r.busy = q.busy := congrArg Observation.busy h.observe

theorem Regs.inStep.done (h : r.inStep q) : r.done = q.done := congrArg Observation.done h.observe

theorem inStep_complete (u v : Word) (r q : Regs) : (complete u v r).inStep (complete u v q) := .idle rfl rfl

/-! The serial loops read nothing but their own registers. -/

theorem Regs.sameProduct.lastIteration_eq (h : r.sameProduct q) : lastIteration r = lastIteration q := by
  rw [lastIteration, lastIteration, h.cnt]

theorem Regs.sameProduct.mulAcc_eq (h : r.sameProduct q) : mulAcc r = mulAcc q := by
  rw [mulAcc, mulAcc, h.acc, h.mcand, h.mplier]

theorem Regs.sameProduct.mulStep (h : r.sameProduct q) : (mulStep r).sameProduct (mulStep q) :=
  ⟨by simp [h.cnt], h.mulAcc_eq, by simp [h.mcand], by simp [h.mplier]⟩

theorem Regs.sameCommand.mulStep (h : r.sameCommand q) : (mulStep r).sameCommand (mulStep q) :=
  ⟨h.observe, h.opr, h.xa, h.xb⟩

theorem Regs.sameDivision.lastIteration_eq (h : r.sameDivision q) : lastIteration r = lastIteration q := by
  rw [lastIteration, lastIteration, h.cnt]

theorem Regs.sameDivision.divTake_eq (h : r.sameDivision q) (hxb : r.xb = q.xb) : divTake r = divTake q := by
  rw [divTake, divTake, divShifted, divShifted, hxb, h.rem, h.dvd]

theorem Regs.sameDivision.divRem_eq (h : r.sameDivision q) (hxb : r.xb = q.xb) : divRem r = divRem q := by
  rw [divRem, divRem, h.divTake_eq hxb, divShifted, divShifted, hxb, h.rem, h.dvd]

theorem Regs.sameDivision.divQuo_eq (h : r.sameDivision q) (hxb : r.xb = q.xb) : divQuo r = divQuo q := by
  rw [divQuo, divQuo, h.divTake_eq hxb, h.quo]

theorem Regs.sameDivision.divStep (h : r.sameDivision q) (hxb : r.xb = q.xb) :
    (divStep r).sameDivision (divStep q) :=
  ⟨by simp [h.cnt], h.divRem_eq hxb, h.divQuo_eq hxb, by simp [h.dvd]⟩

/-! Run steps, by operation. -/

theorem runClz_inStep (h : r.sameCommand q) : (runClz r).inStep (runClz q) := by
  rw [runClz, runClz, h.xa]
  exact inStep_complete _ _ _ _

/-- `MULW` and `MUL` differ only in the words they complete with. -/
theorem multiply_inStep (hi : DWord → Word) (hop : r.opr = 1 ∨ r.opr = 2) (h : r.sameCommand q)
    (hp : r.sameProduct q) :
    (if lastIteration r then complete (loWord (mulAcc r)) (hi (mulAcc r)) (mulStep r) else mulStep r).inStep
      (if lastIteration q then complete (loWord (mulAcc q)) (hi (mulAcc q)) (mulStep q) else mulStep q) := by
  rw [hp.lastIteration_eq, hp.mulAcc_eq]
  split
  · exact inStep_complete _ _ _ _
  · exact .multiply hop h.mulStep hp.mulStep

theorem runDivrem_inStep (hop : r.opr = 3) (h : r.sameCommand q) (hd : r.sameDivision q) :
    (runDivrem r).inStep (runDivrem q) := by
  rw [runDivrem, runDivrem, hd.lastIteration_eq, hd.divQuo_eq h.xb, hd.divRem_eq h.xb, h.xb]
  split
  · exact inStep_complete _ _ _ _
  · exact .divide hop ⟨h.observe, h.opr, h.xa, h.xb⟩ (hd.divStep h.xb)

theorem rsqrtPhase0_inStep (seed : SeedTable) (hop : r.opr = 4) (h : r.sameCommand q) (hiter : r.iter = q.iter) :
    (rsqrtPhase0 seed r).inStep (rsqrtPhase0 seed q) := by
  rw [rsqrtPhase0, rsqrtPhase0, h.xa]
  split_ifs
  · exact inStep_complete _ _ _ _
  · exact inStep_complete _ _ _ _
  · exact .rsqrtPhase hop ⟨h.observe, h.opr, h.xa, h.xb⟩ (by simp) rfl hiter rfl ⟨rfl, rfl, rfl, rfl⟩
  · exact .rsqrtPhase hop ⟨h.observe, h.opr, h.xa, h.xb⟩ (by simp) rfl hiter rfl ⟨rfl, rfl, rfl, rfl⟩

/-- In each product phase: an iteration before the last, and what the last one loads. -/
theorem runRsqrt_inStep (seed : SeedTable) (hop : r.opr = 4) (h : r.sameCommand q) (hph : r.ph ≠ 0)
    (hph' : r.ph = q.ph) (hiter : r.iter = q.iter) (hy : r.y = q.y) (hp : r.sameProduct q) :
    (runRsqrt seed r).inStep (runRsqrt seed q) := by
  have hmore : (mulStep r).inStep (mulStep q) := .rsqrtPhase hop h.mulStep hph hph' hiter hy hp.mulStep
  have hlast := hp.lastIteration_eq
  have hacc := hp.mulAcc_eq
  rw [runRsqrt, runRsqrt, ← hph', if_neg hph, if_neg hph]
  split_ifs
  · rw [rsqrtPhase1, rsqrtPhase1, hlast, hacc, hy]
    split
    · exact .rsqrtPhase hop ⟨h.observe, h.opr, h.xa, h.xb⟩ (by simp) rfl hiter rfl ⟨rfl, rfl, rfl, rfl⟩
    · exact hmore
  · rw [rsqrtPhase2, rsqrtPhase2, hlast, hacc, h.xa]
    split
    · exact .rsqrtPhase hop ⟨h.observe, h.opr, h.xa, h.xb⟩ (by simp) rfl hiter hy ⟨rfl, rfl, rfl, rfl⟩
    · exact hmore
  · rw [rsqrtPhase3, rsqrtPhase3, hlast, hacc, hy]
    split
    · exact .rsqrtPhase hop ⟨h.observe, h.opr, h.xa, h.xb⟩ (by simp) rfl hiter hy ⟨rfl, rfl, rfl, rfl⟩
    · exact hmore
  · rw [rsqrtPhase4, rsqrtPhase4, hlast, hacc, hiter]
    split_ifs
    · exact inStep_complete _ _ _ _
    · exact .rsqrtPhase hop ⟨h.observe, h.opr, h.xa, h.xb⟩ (by simp) rfl rfl rfl ⟨rfl, rfl, rfl, rfl⟩
    · exact hmore
  · exact .rsqrtPhase hop h hph hph' hiter hy hp

theorem run_inStep (seed : SeedTable) (hb : r.busy = true) (h : r.inStep q) :
    (run seed r).inStep (run seed q) := by
  cases h with
  | idle hidle _ => exact absurd hb (by simp [hidle])
  | clz hop h =>
    rw [run_clz seed hop, run_clz seed (h.opr ▸ hop)]
    exact runClz_inStep h
  | multiply hop h hp =>
    rcases id hop with h1 | h2
    · rw [run_mulw seed h1, run_mulw seed (h.opr ▸ h1)]
      exact multiply_inStep hiWord hop h hp
    · rw [run_mul seed h2, run_mul seed (h.opr ▸ h2)]
      exact multiply_inStep (fun _ => 0) hop h hp
  | divide hop h hd =>
    rw [run_divrem seed hop, run_divrem seed (h.opr ▸ hop)]
    exact runDivrem_inStep hop h hd
  | rsqrtStart hop h hph hph' hiter =>
    rw [run_rsqrt seed hop, run_rsqrt seed (h.opr ▸ hop), runRsqrt, runRsqrt, if_pos hph, if_pos hph']
    exact rsqrtPhase0_inStep seed hop h hiter
  | rsqrtPhase hop h hph hph' hiter hy hp =>
    rw [run_rsqrt seed hop, run_rsqrt seed (h.opr ▸ hop)]
    exact runRsqrt_inStep seed hop h hph hph' hiter hy hp

/-- 40_sequencer.md R63: an accept step writes every register its operation reads. -/
theorem acceptOf_inStep (i : Instr) (h : r.observe = q.observe) : (acceptOf i r).inStep (acceptOf i q) := by
  have hcommand : (acceptOf i r).sameCommand (acceptOf i q) := by
    have h0 : r.r0 = q.r0 := congrArg Observation.r0 h
    have h1 : r.r1 = q.r1 := congrArg Observation.r1 h
    exact ⟨by simp [Regs.observe, h0, h1], by simp, by simp, by simp⟩
  cases i with
  | clz a b => exact .clz rfl hcommand
  | mulw a b => exact .multiply (.inl rfl) hcommand ⟨rfl, rfl, rfl, rfl⟩
  | mul a b => exact .multiply (.inr rfl) hcommand ⟨rfl, rfl, rfl, rfl⟩
  | divrem a b => exact .divide rfl hcommand ⟨rfl, rfl, rfl, rfl⟩
  | rsqrt a b => exact .rsqrtStart rfl hcommand rfl rfl rfl

end

/-! Whole states. -/

/-- Two machines in step: their registers are, and they have the same ROM and the same inputs to come. -/
structure State.inStep (s1 s2 : State) : Prop where
  regs : s1.regs.inStep s2.regs
  seed : s1.seed = s2.seed
  script : s1.script = s2.script
  envTick : s1.envTick = s2.envTick

/-- Sampling moves the inputs of two machines in step on alike. -/
theorem State.inStep.sampled_withRegs {s1 s2 : State} (h : s1.inStep s2) {r1 r2 : Regs} (hr : r1.inStep r2) :
    (s1.sampled.withRegs r1).inStep (s2.sampled.withRegs r2) := by
  have hinputs : s1.sampled.script = s2.sampled.script ∧ s1.sampled.envTick = s2.sampled.envTick := by
    unfold State.sampled
    rw [h.regs.done, h.script]
    split
    · exact ⟨rfl, h.envTick⟩
    · exact ⟨rfl, congrArg (· + 1) h.envTick⟩
  exact ⟨hr, by simp [h.seed], hinputs.1, hinputs.2⟩

/-- An edge keeps two machines in step. -/
theorem step_inStep {s1 s2 : State} (h : s1.inStep s2) :
    ∃ t1 t2, step s1 = .next t1 ∧ step s2 = .next t2 ∧ t1.inStep t2 := by
  refine ⟨_, _, step_eq s1, step_eq s2, h.sampled_withRegs ?_⟩
  rw [State.ports_congr h.regs.done h.script h.envTick, ← h.regs.busy, ← h.seed]
  cases hrst : s2.ports.rst with
  | true => exact .idle rfl rfl
  | false =>
    cases hb : s1.regs.busy with
    | true => exact run_inStep s1.seed hb h.regs
    | false =>
      cases s2.ports.offered with
      | some i => exact acceptOf_inStep i h.regs.observe
      | none => exact h.regs

theorem reaches_inStep (k : Nat) {s1 s2 : State} (h : s1.inStep s2) :
    ∃ t1 t2, s1.reaches k t1 ∧ s2.reaches k t2 ∧ t1.inStep t2 := by
  induction k generalizing s1 s2 with
  | zero => exact ⟨s1, s2, by simp, by simp, h⟩
  | succ k ih =>
    obtain ⟨u1, u2, h1, h2, hu⟩ := step_inStep h
    obtain ⟨t1, t2, hr1, hr2, ht⟩ := ih hu
    exact ⟨t1, t2, (State.reaches_succ h1 k t1).2 hr1, (State.reaches_succ h2 k t2).2 hr2, ht⟩

/-- Settles O47: idle blocks that look alike are in step, and stay so. -/
theorem hiddenRegistersAreNeverSeen : Obligations.HiddenRegistersAreNeverSeen := by
  unfold Obligations.HiddenRegistersAreNeverSeen
  intro s1 s2 hidle hlook k
  obtain ⟨hobs, hseed, hscript, htick⟩ := hlook
  obtain ⟨t1, t2, h1, h2, ht⟩ := reaches_inStep k ⟨.idle hidle hobs, hseed, hscript, htick⟩
  exact ⟨t1, t2, h1, h2, ht.regs.observe⟩

end Sys2Proof.Machine


/-! The seed ROM (20_memory.md R35 to R42): which entries are read, by what, and that none is written. -/

namespace Sys2Proof.Machine

/-! The index: the exponent of the operand. -/

theorem ne_zero_of_two_le {x : Word} (h : 2 ≤ x.toNat) : x ≠ 0 := by bv_omega

theorem one_le_exponentOf {x : Word} (h : 2 ≤ x.toNat) : 1 ≤ (exponentOf x).val := by
  have hhigh := (exponentOf_bounds (ne_zero_of_two_le h)).2
  by_contra hlt
  have he : (exponentOf x).val = 0 := by omega
  rw [he] at hhigh
  omega

theorem exponentOf_eq_last_iff {x : Word} (h : x ≠ 0) : (exponentOf x).val = 31 ↔ 2 ^ 31 ≤ x.toNat := by
  obtain ⟨hlow, hhigh⟩ := exponentOf_bounds h
  constructor
  · intro he
    exact he ▸ hlow
  · intro hx
    have hlt : 31 < (exponentOf x).val + 1 := (Nat.pow_lt_pow_iff_right (by decide)).1 (hx.trans_lt hhigh)
    omega

/-- Settles O29: the partner index is 32 exactly for exponent 31, which is that of the operands from `2^31`. -/
theorem seedBeyondTheTableIsZero : Obligations.SeedBeyondTheTableIsZero := by
  unfold Obligations.SeedBeyondTheTableIsZero
  intro seed
  refine ⟨fun i => seedX_of_lt seed i.isLt, seedX_last seed, fun x hx => ⟨(exponentOf x).isLt, ?_⟩⟩
  have hlast := exponentOf_eq_last_iff (ne_zero_of_two_le hx)
  constructor
  · rintro ⟨he, hlt⟩
    rwa [Nat.succ.inj he] at hlt
  · intro hgt
    have he := hlast.2 hgt.le
    exact ⟨congrArg (· + 1) he, he.symm ▸ hgt⟩

/-! Noninterference: two tables that agree in the entries read give the same registers. -/

/-- The two tables agree in the entries that phase 0 of `RSQRT x` reads: none for `x < 2`, else entry `e` and, unless
`x` is a power of two, entry `e + 1` (20_memory.md R38). -/
def sameEntriesFor (x : Word) (seed seed' : SeedTable) : Prop :=
  2 ≤ x.toNat →
    romRead seed' (exponentOf x) = romRead seed (exponentOf x) ∧
    (x.toNat ≠ 2 ^ (exponentOf x).val → seedX seed' ((exponentOf x).val + 1) = seedX seed ((exponentOf x).val + 1))

/-- Entry 0 is none of them. -/
theorem sameEntriesFor_of_ne_zero {seed seed' : SeedTable}
    (h : ∀ i : Fin 32, i ≠ 0 → romRead seed' i = romRead seed i) (x : Word) : sameEntriesFor x seed seed' := by
  intro hx
  have hpos := one_le_exponentOf hx
  refine ⟨h _ (Fin.ne_of_val_ne (by simp; omega)), fun _ => ?_⟩
  by_cases hlt : (exponentOf x).val + 1 < 32
  · rw [seedX_of_lt seed' hlt, seedX_of_lt seed hlt]
    exact h _ (Fin.ne_of_val_ne (by simp))
  · rw [seedX, seedX, dif_neg hlt, dif_neg hlt]

theorem rsqrtPhase0_sameEntries {seed seed' : SeedTable} {r : Regs} (h : sameEntriesFor r.xa seed seed') :
    rsqrtPhase0 seed' r = rsqrtPhase0 seed r := by
  rw [rsqrtPhase0, rsqrtPhase0]
  split_ifs with h0 h1 hpower
  · rfl
  · rfl
  · obtain ⟨hentry, hnext⟩ := h (two_le_toNat h0 h1)
    rw [seedDelta, seedDelta, hentry, hnext hpower]
  · rw [(h (two_le_toNat h0 h1)).1]

/-- A run step reads the table in phase 0 of `RSQRT` only. -/
theorem run_sameEntries {seed seed' : SeedTable} {r : Regs}
    (h : r.opr = 4 → r.ph = 0 → sameEntriesFor r.xa seed seed') : run seed' r = run seed r := by
  by_cases hop : r.opr = 4
  · rw [run_rsqrt seed hop, run_rsqrt seed' hop, runRsqrt, runRsqrt]
    by_cases hph : r.ph = 0
    · rw [if_pos hph, if_pos hph, rsqrtPhase0_sameEntries (h hop hph)]
    · rw [if_neg hph, if_neg hph]
  · rcases run_cases seed r with ⟨ho, hq⟩ | ⟨ho, hq⟩ | ⟨ho, hq⟩ | ⟨ho, hq⟩ | ⟨ho, -⟩ | ⟨ho, hq⟩
    · rw [hq, run_clz seed' ho]
    · rw [hq, run_mulw seed' ho]
    · rw [hq, run_mul seed' ho]
    · rw [hq, run_divrem seed' ho]
    · exact absurd ho hop
    · rw [hq, run_reserved seed' ho]

theorem State.sampled_withSeed (s : State) (seed' : SeedTable) :
    State.sampled { s with seed := seed' } = { s.sampled with seed := seed' } := by
  cases hnext : nextInput s.regs.done s.script with
  | none => simp only [State.sampled, hnext]
  | some next => simp only [State.sampled, hnext]

/-- A step reads the table through its run step only. -/
theorem step_withSeed {s : State} {seed' : SeedTable}
    (h : s.regs.busy = true → run seed' s.regs = run s.seed s.regs) :
    ∃ r : Regs, step s = .next (s.sampled.withRegs r) ∧
      step { s with seed := seed' } = .next ({ s.sampled.withRegs r with seed := seed' }) := by
  have hports : State.ports { s with seed := seed' } = s.ports := State.ports_congr rfl rfl rfl
  refine ⟨_, step_eq s, ?_⟩
  rw [step_eq, hports, State.sampled_withSeed]
  cases hb : s.regs.busy with
  | true => simp only [h hb]; rfl
  | false => rfl

/-- Settles O49: the registers a step gives are settled by the entries that phase 0 reads. -/
theorem romReadsAreTheTwoEntries : Obligations.RomReadsAreTheTwoEntries := by
  unfold Obligations.RomReadsAreTheTwoEntries
  constructor
  · intro s seed' hentries
    exact step_withSeed fun hb => run_sameEntries fun hop hph => hentries hb hop hph
  · intro s seed' hentries
    exact step_withSeed fun _ => run_sameEntries fun _ _ => sameEntriesFor_of_ne_zero hentries s.regs.xa

/-! No write. -/

/-- Settles O50, by induction on the number of steps. -/
theorem romNeverChanges : Obligations.RomNeverChanges := by
  unfold Obligations.RomNeverChanges
  intro k
  induction k with
  | zero =>
    intro s t hrun
    rw [(State.reaches_zero s t).1 hrun]
  | succ k ih =>
    intro s t hrun
    obtain ⟨u, hu⟩ := step_total s
    exact (ih u t ((State.reaches_succ hu k t).1 hrun)).trans (step_seed hu)

/-! The default content (20_memory.md R40, R41). -/

theorem defaultSeed_nonincreasing (i : Fin 31) :
    seedX Config.defaultSeed (i.val + 1) ≤ seedX Config.defaultSeed i.val := by
  revert i; decide

theorem defaultSeed_lt (i : Fin 31) : (seedX Config.defaultSeed (i.val + 1)).toNat < 65536 := by
  revert i; decide

/-- Two Newton iterations lead from each entry back to it. -/
theorem rsqrt_defaultSeed_power (i : Fin 31) :
    rsqrt Config.defaultSeed ((1 : Word) <<< (i.val + 1)) = seedX Config.defaultSeed (i.val + 1) := by
  revert i; decide

/-- Settles O37, entry by entry of the literal table. -/
theorem defaultSeedMeetsRequirements : Obligations.DefaultSeedMeetsRequirements := by
  unfold Obligations.DefaultSeedMeetsRequirements
  exact ⟨⟨defaultSeed_nonincreasing, rfl, rfl, rsqrt_defaultSeed_power, defaultSeed_lt, Nat.le_refl 65536⟩, rfl⟩

end Sys2Proof.Machine

/-! The command word `{op, b, a}` (30_encoding.md R50 to R55): its three fields, and the operation code map read
from them. -/

namespace Sys2Proof.Machine

/-! The fields of a word put together from three parts. -/

@[simp] theorem commandWord_a_append (op : OpCode) (b a : Word) : CommandWord.a ((op ++ b) ++ a) = a :=
  BitVec.extractLsb'_append_eq_right

@[simp] theorem commandWord_b_append (op : OpCode) (b a : Word) : CommandWord.b ((op ++ b) ++ a) = b :=
  (BitVec.extractLsb'_append_eq_of_le (by decide)).trans BitVec.extractLsb'_append_eq_right

@[simp] theorem commandWord_op_append (op : OpCode) (b a : Word) : CommandWord.op ((op ++ b) ++ a) = op :=
  Laws.LegalOp.op_of_append op b a

/-- The decoder sees a word through its three fields only (30_encoding.md R51). -/
theorem decode_append (op : OpCode) (b a : Word) : decode ((op ++ b) ++ a) = decodeCommand op a b := by
  rw [decode, commandWord_op_append, commandWord_a_append, commandWord_b_append]

/-- The fields as numbers: each stands above the ones after it. -/
theorem toNat_append_fields (op : OpCode) (b a : Word) :
    ((op ++ b) ++ a).toNat = op.toNat * 2 ^ 64 + b.toNat * 2 ^ 32 + a.toNat := by
  rw [BitVec.toNat_append, BitVec.toNat_append, ← Nat.shiftLeft_add_eq_or_of_lt b.isLt,
    ← Nat.shiftLeft_add_eq_or_of_lt a.isLt, Nat.shiftLeft_eq, Nat.shiftLeft_eq]
  omega

/-- A word is settled by its number, so arithmetic names the same fields as bit extraction. -/
theorem eq_append_of_toNat {w : CommandWord} {op : OpCode} {a b : Word}
    (h : w.toNat = op.toNat * 2 ^ 64 + b.toNat * 2 ^ 32 + a.toNat) : w = (op ++ b) ++ a :=
  BitVec.eq_of_toNat_eq (h.trans (toNat_append_fields op b a).symm)

/-- Settles O1: the decoder reads back the three fields, and they name the instruction. -/
theorem decodeOfEncode : Obligations.DecodeOfEncode := by
  unfold Obligations.DecodeOfEncode
  intro i
  exact (decode_append i.op i.b i.a).trans (decodeCommand_op i)

/-! The operation code map. -/

theorem opCode_cases (op : OpCode) :
    op = 0 ∨ op = 1 ∨ op = 2 ∨ op = 3 ∨ op = 4 ∨ 5 ≤ op.toNat := by
  revert op; decide

theorem opCode_ne_of_reserved {op : OpCode} (h : 5 ≤ op.toNat) :
    op ≠ 0 ∧ op ≠ 1 ∧ op ≠ 2 ∧ op ≠ 3 ∧ op ≠ 4 := by
  revert op; decide

/-- 30_encoding.md R52, R55, row by row. -/
theorem decodeCommand_eq_ite (op : OpCode) (a b : Word) :
    decodeCommand op a b =
      (if op = 0 then .ok (.clz a b)
       else if op = 1 then .ok (.mulw a b)
       else if op = 2 then .ok (.mul a b)
       else if op = 3 then .ok (.divrem a b)
       else if op = 4 then .ok (.rsqrt a b)
       else .error (.reservedOp op)) := by
  rcases opCode_cases op with rfl | rfl | rfl | rfl | rfl | hreserved
  · rfl
  · rfl
  · rfl
  · rfl
  · rfl
  · obtain ⟨h0, h1, h2, h3, h4⟩ := opCode_ne_of_reserved hreserved
    rw [decodeCommand_reserved a b hreserved, if_neg h0, if_neg h1, if_neg h2, if_neg h3, if_neg h4]

/-- A word that is accepted is the encoding of the answer. -/
theorem encode_of_decodeCommand {op : OpCode} {a b : Word} {i : Instr} (h : decodeCommand op a b = .ok i) :
    encode i = (op ++ b) ++ a := by
  obtain ⟨hop, ha, hb⟩ := decodeCommand_ok h
  rw [encode, hop, ha, hb]

/-- Settles O2: the word is its three fields, and the decoder is the map on them. -/
theorem decodeIsTheOpcodeMap : Obligations.DecodeIsTheOpcodeMap := by
  unfold Obligations.DecodeIsTheOpcodeMap
  intro w op a b hw
  rw [eq_append_of_toNat hw, decode_append]
  exact ⟨decodeCommand_eq_ite op a b, fun i hi => encode_of_decodeCommand hi⟩

/-! Words of the opcode table (30_encoding.md R51). -/

theorem decodeTableWord_eq_some {nbits w : Nat} {i : Instr} :
    decodeTableWord nbits w = some i ↔ decode (commandWordOf nbits w) = .ok i := by
  unfold decodeTableWord
  cases decode (commandWordOf nbits w) <;> simp

/-- The word written for an instruction decodes to it. -/
theorem decodeTableWord_of_encode {nbits w : Nat} {i : Instr} (h : commandWordOf nbits w = encode i) :
    decodeTableWord nbits w = some i :=
  decodeTableWord_eq_some.2 (h ▸ decodeOfEncode i)

/-- A word with a reserved code decodes to nothing. -/
theorem decodeTableWord_of_reserved {nbits w : Nat} (h : 5 ≤ (CommandWord.op (commandWordOf nbits w)).toNat) :
    decodeTableWord nbits w = none := by
  rw [decodeTableWord, decode, decodeCommand_reserved _ _ h]

/-- Settles O3: five written words are encodings, three carry a reserved code. -/
theorem writtenWordsDecode : Obligations.WrittenWordsDecode := by
  unfold Obligations.WrittenWordsDecode
  exact ⟨decodeTableWord_of_encode rfl, decodeTableWord_of_encode rfl, decodeTableWord_of_encode rfl,
    decodeTableWord_of_encode rfl, decodeTableWord_of_encode rfl, decodeTableWord_of_reserved (by decide),
    decodeTableWord_of_reserved (by decide), decodeTableWord_of_reserved (by decide)⟩

/-! What the ports show of a command. -/

theorem Input.offered_reserved {inp : Input} (h : 5 ≤ inp.op.toNat) : inp.offered = none := by
  by_contra hne
  obtain ⟨-, hlegal⟩ := inp.offered_ne_none_iff.1 hne
  omega

theorem Input.offered_not_start {inp : Input} (h : inp.start = false) : inp.offered = none := by
  simp [Input.offered, h]

/-- The ports show the decoded command of a word that stands on them. -/
theorem offerWord_offered {nbits w : Nat} {i : Instr} (h : decodeTableWord nbits w = some i) :
    (offerWord nbits w).offered = some i :=
  Input.offered_of_ok rfl (decodeTableWord_eq_some.1 h)

/-- Inputs that offer a command and do not reset are the offer of it and nothing more. -/
theorem Input.eq_offer_of_offered {inp : Input} {i : Instr} (hrst : inp.rst = false)
    (h : inp.offered = some i) : inp = Input.offer i := by
  obtain ⟨hstart, -⟩ := Input.offered_eq_some h
  obtain ⟨hop, ha, hb⟩ := Input.ports_of_offered h
  rw [Input.offer, hop, ha, hb, ← hrst, ← hstart]

/-- 93_implementation_defined.md U1: with `start` and without `rst` the checker looks at the code alone. -/
theorem Input.admitted_iff {inp : Input} (hrst : inp.rst = false) (hstart : inp.start = true) :
    inp.admitted = true ↔ inp.op.toNat ≤ 4 := by
  simp [Input.admitted, hrst, hstart]

theorem Instr.wellFormed_eq (i : Instr) : i.wellFormed = true := decide_eq_true (Instr.op_le_four i)

/-- Settles O14: the checker admits exactly the legal codes, and a legal code offers a command. -/
theorem admittedOfferIsACommand : Obligations.AdmittedOfferIsACommand := by
  unfold Obligations.AdmittedOfferIsACommand
  intro inp hrst hstart
  constructor
  · intro hadmitted
    obtain ⟨i, hi⟩ := decodeCommand_legal inp.a inp.b ((Input.admitted_iff hrst hstart).1 hadmitted)
    have hoffered := Input.offered_of_ok hstart hi
    exact ⟨i, hoffered, Instr.wellFormed_eq i, Input.eq_offer_of_offered hrst hoffered⟩
  · intro hrefused
    have hreserved : 5 ≤ inp.op.toNat := by
      rw [← Bool.not_eq_true, Input.admitted_iff hrst hstart] at hrefused
      omega
    exact ⟨Input.offered_reserved hreserved, hreserved⟩

/-! One edge with given inputs. -/

/-- An offered command is executed, unless the block is reset (40_sequencer.md R61). -/
theorem step_drive_offered {s : State} {inp : Input} {i : Instr} (hrst : inp.rst = false)
    (h : inp.offered = some i) : step (s.drive inp) = exec i s := by
  rw [step_eq, exec_eq, State.ports_drive, State.sampled_drive, hrst, h]
  rfl

theorem step_drive_offer (i : Instr) (s : State) :
    step (s.drive (Input.offer i)) =
      .next (s.withRegs (if s.regs.busy then run s.seed s.regs else acceptOf i s.regs)) :=
  (step_drive_offered rfl (Input.offered_offer i)).trans (exec_eq i s)

/-- An idle block to which nothing is offered stays as it is (40_sequencer.md R64). -/
theorem step_drive_unoffered {s : State} {inp : Input} (hrst : inp.rst = false) (hb : s.regs.busy = false)
    (h : inp.offered = none) : step (s.drive inp) = .next s := by
  rw [step_eq, State.ports_drive, State.sampled_drive, State.drive_regs, hrst, hb, h]
  rfl

/-- Settles O5: the placed word is the command that stands on the ports of the next edge. -/
theorem placedWordRunsNext : Obligations.PlacedWordRunsNext := by
  unfold Obligations.PlacedWordRunsNext
  intro s nbits w i h
  have hplaced : s.withFetchWord nbits w = (s.withRegs { s.regs with busy := false }).drive (offerWord nbits w) := rfl
  rw [hplaced, step_drive_offered rfl (offerWord_offered h)]
  rfl

end Sys2Proof.Machine

/-! Waiting (30_encoding.md R58): the edges that a `WAIT` line stands for, on an idle and on a running block. -/

namespace Sys2Proof.Machine

section
variable {s : State} {rest : List ScriptLine}

/-- While `DONE == 0` a `WAIT` drives nothing on the ports and stays at the front of the script. -/
theorem State.ports_wait (hs : s.script = .wait :: rest) (hd : s.regs.done = false) : s.ports = Input.idle := by
  rw [State.ports, hs, hd, nextInput_wait_not_done]

theorem State.sampled_wait (hs : s.script = .wait :: rest) (hd : s.regs.done = false) : s.sampled = s := by
  rw [State.sampled, hs, hd, nextInput_wait_not_done]
  exact hs ▸ rfl

theorem step_wait_idle (hs : s.script = .wait :: rest) (hd : s.regs.done = false) (hb : s.regs.busy = false) :
    step s = .next s := by
  rw [step_eq, State.ports_wait hs hd, State.sampled_wait hs hd, hb]
  rfl

theorem step_wait_busy (hs : s.script = .wait :: rest) (hd : s.regs.done = false) (hb : s.regs.busy = true) :
    step s = .next (s.withRegs (run s.seed s.regs)) := by
  rw [step_eq, State.ports_wait hs hd, State.sampled_wait hs hd, hb]
  rfl

end

/-- A state that steps to itself is never left. -/
theorem State.reaches_of_fixed {s : State} (h : step s = .next s) (k : Nat) : s.reaches k s := by
  induction k with
  | zero => exact (State.reaches_zero s s).2 rfl
  | succ k ih => exact (State.reaches_succ h k s).2 ih

/-- Settles O9: nothing is offered, so an idle block stays; and so it does at every edge of a `WAIT` while
`DONE == 0`. -/
theorem reservedCodeIsIgnored : Obligations.ReservedCodeIsIgnored := by
  unfold Obligations.ReservedCodeIsIgnored
  intro s op a b hb hop
  have hignored (u : State) (hidle : u.regs.busy = false) :
      step (u.drive ⟨false, true, op, a, b⟩) = .next u :=
    step_drive_unoffered rfl hidle (Input.offered_reserved hop)
  have hthen := hignored { s with script := [.wait] } hb
  refine ⟨hignored s hb, ?_, fun hd k => ?_, fun hd => ⟨?_, ?_⟩⟩
  · rw [hignored s hb, step_drive_unoffered rfl hb (Input.offered_not_start rfl)]
  · have hwaiting : step { s with script := [.wait] } = .next { s with script := [.wait] } :=
      step_wait_idle rfl hd hb
    exact (State.reaches_succ hthen k _).2 (State.reaches_of_fixed hwaiting k)
  · exact (State.reaches_succ hthen 0 _).2 ((State.reaches_zero _ _).2 rfl)
  · rw [hd, nextInput_wait_done, nextInput_nil]

end Sys2Proof.Machine

/-! The operand `b` of `CLZ` and `RSQRT` (30_encoding.md R53): `XB` is not read while one of them runs, nor in an
idle block, so two blocks that differ there alone stay alike. -/

namespace Sys2Proof.Machine

/-- The registers with another second operand. -/
def Regs.withXb (v : Word) (r : Regs) : Regs := { r with xb := v }

/-- The machine with another second operand. -/
def State.withXb (v : Word) (s : State) : State := s.withRegs (s.regs.withXb v)

/-- No step reads `XB` before it is written again: the block is idle, or it runs an operation of one operand. -/
def Regs.xbUnread (r : Regs) : Prop := r.busy = false ∨ r.opr = 0 ∨ r.opr = 4

@[simp] theorem State.withXb_observe (v : Word) (s : State) : (s.withXb v).observe = s.observe := rfl

/-- An accept step writes `XB` whatever it was (40_sequencer.md R63). -/
theorem acceptOf_withXb (i : Instr) (v : Word) (r : Regs) : acceptOf i (r.withXb v) = acceptOf i r := by
  cases i <;> rfl

/-- `CLZ` and `RSQRT` offered with another `b` differ in `XB` alone. -/
theorem acceptOf_clz_eq_withXb (a b b' : Word) (r : Regs) :
    acceptOf (.clz a b') r = (acceptOf (.clz a b) r).withXb b' := rfl

theorem acceptOf_rsqrt_eq_withXb (a b b' : Word) (r : Regs) :
    acceptOf (.rsqrt a b') r = (acceptOf (.rsqrt a b) r).withXb b' := rfl

theorem runClz_withXb (v : Word) (r : Regs) : runClz (r.withXb v) = (runClz r).withXb v := rfl

/-- A choice that does not read `XB` may be made before or after it is replaced. -/
theorem Regs.withXb_ite (v : Word) (p : Prop) [Decidable p] (r q : Regs) :
    (if p then r else q).withXb v = if p then r.withXb v else q.withXb v := apply_ite _ _ _ _

/-- No phase of `RSQRT` reads `XB` (44_rsqrt.md R110 to R114). -/
theorem runRsqrt_withXb (seed : SeedTable) (v : Word) (r : Regs) :
    runRsqrt seed (r.withXb v) = (runRsqrt seed r).withXb v := by
  unfold runRsqrt rsqrtPhase0 rsqrtPhase1 rsqrtPhase2 rsqrtPhase3 rsqrtPhase4
  simp only [Regs.withXb_ite]
  rfl

theorem run_withXb (seed : SeedTable) (v : Word) {r : Regs} (h : r.opr = 0 ∨ r.opr = 4) :
    run seed (r.withXb v) = (run seed r).withXb v := by
  rcases h with h | h
  · rw [run_clz seed h, run_clz seed (r := r.withXb v) h, runClz_withXb]
  · rw [run_rsqrt seed h, run_rsqrt seed (r := r.withXb v) h, runRsqrt_withXb]

theorem State.ports_withXb (v : Word) (s : State) : (s.withXb v).ports = s.ports := State.ports_congr rfl rfl rfl

theorem State.sampled_withXb (v : Word) (s : State) : (s.withXb v).sampled = s.sampled.withXb v := by
  cases hnext : nextInput s.regs.done s.script with
  | none => simp only [State.sampled, State.withXb, State.withRegs, Regs.withXb, hnext]
  | some next => simp only [State.sampled, State.withXb, State.withRegs, Regs.withXb, hnext]

/-- An edge keeps two blocks that differ in an unread `XB` so, or makes them the same. -/
theorem step_withXb (v : Word) {s t : State} (h : s.regs.xbUnread) (hstep : step s = .next t) :
    step (s.withXb v) = .next t ∨ (step (s.withXb v) = .next (t.withXb v) ∧ t.regs.xbUnread) := by
  have hother : step (s.withXb v) = .next (s.sampled.withRegs
      (if s.ports.rst then Regs.reset
       else if s.regs.busy then run s.seed (s.regs.withXb v)
       else match s.ports.offered with
         | some i => acceptOf i (s.regs.withXb v)
         | none => s.regs.withXb v)) := by
    rw [step_eq, State.ports_withXb, State.sampled_withXb]
    rfl
  rw [hother]
  rcases step_cases hstep with ⟨hr, rfl⟩ | ⟨hr, hb, rfl⟩ | ⟨hr, hb, i, hi, rfl⟩ | ⟨hr, hb, hnone, rfl⟩
  · left
    simp only [hr, if_true]
  · have hop : s.regs.opr = 0 ∨ s.regs.opr = 4 := h.resolve_left (by simp [hb])
    refine .inr ⟨?_, .inr (by simpa using hop)⟩
    simp only [hr, hb, if_true, Bool.false_eq_true, if_false, run_withXb s.seed v hop]
    rfl
  · left
    simp only [hr, hb, hi, Bool.false_eq_true, if_false, acceptOf_withXb]
  · refine .inr ⟨?_, .inl (by simpa using hb)⟩
    simp only [hr, hb, hnone, Bool.false_eq_true, if_false]
    rw [State.withXb, State.sampled_regs]

/-- An unread `XB` is not seen after any number of steps. -/
theorem reaches_withXb (k : Nat) (v : Word) {s : State} (h : s.regs.xbUnread) :
    ∃ t1 t2, s.reaches k t1 ∧ (s.withXb v).reaches k t2 ∧ t1.observe = t2.observe := by
  induction k generalizing s with
  | zero => exact ⟨s, s.withXb v, by simp, by simp, by simp⟩
  | succ k ih =>
    obtain ⟨u, hu⟩ := step_total s
    rcases step_withXb v h hu with hsame | ⟨hother, hunread⟩
    · obtain ⟨t, ht⟩ := State.reaches_total k u
      exact ⟨t, t, (State.reaches_succ hu k t).2 ht, (State.reaches_succ hsame k t).2 ht, rfl⟩
    · obtain ⟨t1, t2, h1, h2, hobs⟩ := ih hunread
      exact ⟨t1, t2, (State.reaches_succ hu k t1).2 h1, (State.reaches_succ hother k t2).2 h2, hobs⟩

/-- Two commands whose acceptances differ in an unread `XB` alone cannot be told apart: a busy block loses either,
an idle one accepts it. -/
theorem reaches_offer_withXb {i j : Instr} {b : Word} (hop : i.op = 0 ∨ i.op = 4)
    (haccept : ∀ r, acceptOf j r = (acceptOf i r).withXb b) (s : State) (k : Nat) :
    ∃ t1 t2, (s.drive (Input.offer i)).reaches k t1 ∧ (s.drive (Input.offer j)).reaches k t2 ∧
      t1.observe = t2.observe := by
  cases k with
  | zero => exact ⟨_, _, (State.reaches_zero _ _).2 rfl, (State.reaches_zero _ _).2 rfl, rfl⟩
  | succ k =>
    have hi := step_drive_offer i s
    have hj := step_drive_offer j s
    cases hb : s.regs.busy with
    | true =>
      simp only [hb, if_true] at hi hj
      obtain ⟨t, ht⟩ := State.reaches_total k (s.withRegs (run s.seed s.regs))
      exact ⟨t, t, (State.reaches_succ hi k t).2 ht, (State.reaches_succ hj k t).2 ht, rfl⟩
    | false =>
      simp only [hb, Bool.false_eq_true, if_false, haccept] at hi hj
      have hunread : (s.withRegs (acceptOf i s.regs)).regs.xbUnread := .inr (by simpa using hop)
      obtain ⟨t1, t2, h1, h2, hobs⟩ := reaches_withXb k b hunread
      exact ⟨t1, t2, (State.reaches_succ hi k t1).2 h1, (State.reaches_succ hj k t2).2 h2, hobs⟩

/-- Settles O48: after the offer the two blocks are the same, or differ in an unread `XB` alone. -/
theorem unusedOperandIsNeverSeen : Obligations.UnusedOperandIsNeverSeen := by
  unfold Obligations.UnusedOperandIsNeverSeen
  intro s a b b' rest k
  have hclz := reaches_offer_withXb (.inl rfl) (acceptOf_clz_eq_withXb a b b') { s with script := rest } k
  have hrsqrt := reaches_offer_withXb (.inr rfl) (acceptOf_rsqrt_eq_withXb a b b') { s with script := rest } k
  exact ⟨hclz, hrsqrt⟩

end Sys2Proof.Machine

/-! How long a command runs (70_reset_and_hazards.md R146, R151): every run step brings the command one step nearer
to its completion, so it completes after `LAT` run steps with its result (40_sequencer.md R68). -/

namespace Sys2Proof.Machine

/-! The steps still to come, by operation (44_rsqrt.md R119). -/

section
variable {seed : SeedTable} {r : Regs}

theorem remaining_idle (hb : r.busy = false) : r.remaining = 0 := by simp [Regs.remaining, hb]

theorem remaining_clz (hb : r.busy = true) (hop : r.opr = 0) : r.remaining = 1 := by
  simp [Regs.remaining, hb, command_clz hop]

theorem remaining_loop (hb : r.busy = true) (hop : r.opr = 1 ∨ r.opr = 2 ∨ r.opr = 3) :
    r.remaining = r.cnt.toNat := by
  rcases hop with hop | hop | hop
  · simp [Regs.remaining, hb, command_mulw hop]
  · simp [Regs.remaining, hb, command_mul hop]
  · simp [Regs.remaining, hb, command_divrem hop]

theorem remaining_rsqrtStart (hb : r.busy = true) (hop : r.opr = 4) (hph : r.ph = 0) :
    r.remaining = latency (.rsqrt r.xa r.xb) := by
  simp [Regs.remaining, hb, command_rsqrt hop, hph]

/-- The phases after the one in progress, and a second Newton iteration after the first. -/
def Regs.laterPhases (r : Regs) : Nat :=
  if r.ph = 1 then 192 else 32 * (4 - r.ph.toNat) + (if r.iter then 0 else 96)

theorem remaining_rsqrtPhase (hb : r.busy = true) (hop : r.opr = 4) (hph : r.ph ≠ 0) :
    r.remaining = r.cnt.toNat + r.laterPhases := by
  simp only [Regs.remaining, hb, if_true, command_rsqrt hop, if_neg hph, Regs.laterPhases]
  split
  · rfl
  · rw [Nat.add_assoc]

/-! Each run step is one of them. -/

/-- The step that completes a command is the last one. -/
theorem remaining_complete {lo hi : Word} (q : Regs) (h : r.remaining = 1) :
    (complete lo hi q).remaining + 1 = r.remaining := by
  rw [remaining_idle (complete_busy lo hi q), h]

/-- An iteration of a serial loop counts down, or completes when it is the last. -/
theorem loop_remaining {lo hi : Word} {q : Regs} (hb : r.busy = true) (hop : r.opr = 1 ∨ r.opr = 2 ∨ r.opr = 3)
    (hl : r.looping) (hqb : q.busy = r.busy) (hqop : q.opr = r.opr) (hqcnt : q.cnt = r.cnt - 1) :
    (if lastIteration r then complete lo hi q else q).remaining + 1 = r.remaining := by
  have hsub := hl.toNat_cnt_sub_one
  obtain ⟨hpos, -⟩ := hl
  split
  next hlast =>
    exact remaining_complete q (by rw [remaining_loop hb hop, (lastIteration_iff r).1 hlast]; rfl)
  next =>
    rw [remaining_loop (hqb.trans hb) (hqop ▸ hop), remaining_loop hb hop, hqcnt]
    omega

/-- A product phase that has just been entered has 32 iterations and the later phases to come. -/
theorem loaded_remaining {q : Regs} {n : Nat} (hb : q.busy = true) (hop : q.opr = 4) (hph : q.ph ≠ 0)
    (hcnt : q.cnt = 32) (hn : 33 + q.laterPhases = n) : q.remaining + 1 = n := by
  rw [remaining_rsqrtPhase hb hop hph, hcnt, ← hn, show (32 : BitVec 6).toNat = 32 from rfl]
  omega

/-- 44_rsqrt.md R119: phase 0 is over in one step, and what follows depends on the operand's class. -/
theorem rsqrtPhase0_remaining (hb : r.busy = true) (hop : r.opr = 4) (hph : r.ph = 0) (hiter : r.iter = false) :
    (rsqrtPhase0 seed r).remaining + 1 = r.remaining := by
  have hlat := remaining_rsqrtStart hb hop hph
  unfold rsqrtPhase0
  split_ifs with hzero hone hpower
  · exact remaining_complete _ (by rw [hlat, hzero]; rfl)
  · exact remaining_complete _ (by rw [hlat, hone]; rfl)
  · have hx : ¬ r.xa.toNat ≤ 1 := Nat.not_le.2 (two_le_toNat hzero hone)
    refine loaded_remaining hb hop (by simp) rfl ?_
    rw [hlat, latency, if_neg hx, if_neg hpower]
    rfl
  · have hx : ¬ r.xa.toNat ≤ 1 := Nat.not_le.2 (two_le_toNat hzero hone)
    refine loaded_remaining hb hop (by simp) rfl ?_
    rw [hlat, latency, if_neg hx, if_pos (not_not.1 hpower)]
    simp [Regs.laterPhases, hiter]

/-- In a product phase an iteration before the last counts down. -/
theorem mulStep_remaining (hb : r.busy = true) (hop : r.opr = 4) (hph : r.ph ≠ 0) (hl : r.looping) :
    (mulStep r).remaining + 1 = r.remaining := by
  have hsub := hl.toNat_cnt_sub_one
  have hlater : (mulStep r).laterPhases = r.laterPhases := rfl
  obtain ⟨hpos, -⟩ := hl
  rw [remaining_rsqrtPhase (r := mulStep r) hb hop hph, remaining_rsqrtPhase hb hop hph, hlater, mulStep_cnt]
  omega

/-- The last iteration of a product phase loads the counter for the next phase. -/
theorem enterPhase_remaining {q : Regs} (hb : r.busy = true) (hop : r.opr = 4) (hph : r.ph ≠ 0)
    (hlast : lastIteration r = true) (hqb : q.busy = r.busy) (hqop : q.opr = r.opr) (hqph : q.ph ≠ 0)
    (hqcnt : q.cnt = 32) (hlater : q.laterPhases + 32 = r.laterPhases) : q.remaining + 1 = r.remaining := by
  refine loaded_remaining (hqb.trans hb) (hqop.trans hop) hqph hqcnt ?_
  rw [remaining_rsqrtPhase hb hop hph, (lastIteration_iff r).1 hlast, ← hlater,
    show (1 : BitVec 6).toNat = 1 from rfl]
  omega

theorem runRsqrt_remaining (hb : r.busy = true) (hop : r.opr = 4) (hrange : r.ph.toNat ≤ 4)
    (hest : r.estimating seed) : (runRsqrt seed r).remaining + 1 = r.remaining := by
  obtain ⟨hstart, hphases, hfirst, -⟩ := hest
  have hmore (hph : r.ph ≠ 0) := mulStep_remaining hb hop hph (hphases hph).2
  have hnext {q : Regs} (hph : r.ph ≠ 0) (hlast : lastIteration r = true) :=
    enterPhase_remaining (q := q) hb hop hph hlast
  rcases runRsqrt_cases seed r with ⟨hp, hq⟩ | ⟨hp, hq⟩ | ⟨hp, hq⟩ | ⟨hp, hq⟩ | ⟨hp, hq⟩ | ⟨hp, -⟩
  · rw [hq]
    exact rsqrtPhase0_remaining hb hop hp (hstart hp)
  · have hph : r.ph ≠ 0 := by simp [hp]
    rw [hq, rsqrtPhase1]
    split
    next hlast =>
      exact hnext hph hlast rfl rfl (by simp) rfl (by simp [Regs.laterPhases, hp, (hfirst hp).1])
    next => exact hmore hph
  · have hph : r.ph ≠ 0 := by simp [hp]
    rw [hq, rsqrtPhase2]
    split
    next hlast =>
      exact hnext hph hlast rfl rfl (by simp) rfl (by cases hi : r.iter <;> simp [Regs.laterPhases, hp, hi])
    next => exact hmore hph
  · have hph : r.ph ≠ 0 := by simp [hp]
    rw [hq, rsqrtPhase3]
    split
    next hlast =>
      exact hnext hph hlast rfl rfl (by simp) rfl (by cases hi : r.iter <;> simp [Regs.laterPhases, hp, hi])
    next => exact hmore hph
  · have hph : r.ph ≠ 0 := by simp [hp]
    rw [hq, rsqrtPhase4]
    split_ifs with hlast hiter
    · refine remaining_complete _ ?_
      rw [remaining_rsqrtPhase hb hop hph, (lastIteration_iff r).1 hlast]
      simp [Regs.laterPhases, hp, hiter]
    · exact hnext hph hlast rfl rfl (by simp) rfl (by simp [Regs.laterPhases, hp, hiter])
    · exact hmore hph
  · omega

/-- 70_reset_and_hazards.md R151: every run step brings the command exactly one step nearer to its completion. -/
theorem run_remaining (h : r.wellRun seed) (hb : r.busy = true) :
    (run seed r).remaining + 1 = r.remaining := by
  obtain ⟨⟨-, hopr, hph, -⟩, hmul, hdiv, hest, -⟩ := h
  rcases run_cases seed r with ⟨ho, hq⟩ | ⟨ho, hq⟩ | ⟨ho, hq⟩ | ⟨ho, hq⟩ | ⟨ho, hq⟩ | ⟨ho, -⟩
  · rw [hq]
    exact remaining_complete r (remaining_clz hb ho)
  · rw [hq]
    exact loop_remaining hb (.inl ho) (hmul hb (.inl ho)).1 rfl rfl rfl
  · rw [hq]
    exact loop_remaining hb (.inr (.inl ho)) (hmul hb (.inr ho)).1 rfl rfl rfl
  · rw [hq]
    exact loop_remaining hb (.inr (.inr ho)) (hdiv hb ho).1 rfl rfl rfl
  · rw [hq]
    exact runRsqrt_remaining hb ho hph (hest hb ho)
  · omega

theorem remaining_pos_iff (h : r.wellRun seed) : 0 < r.remaining ↔ r.busy = true := by
  cases hb : r.busy with
  | true => simp [← run_remaining h hb]
  | false => simp [remaining_idle hb]

/-! A whole run. -/

/-- The command is the three latched values. -/
theorem command_of_latched {q : Regs} (h : q.latched = r.latched) : q.command = r.command := by
  obtain ⟨hop, hxa, hxb⟩ : q.opr = r.opr ∧ q.xa = r.xa ∧ q.xb = r.xb := by simpa using h
  rw [Regs.command, Regs.command, hop, hxa, hxb]

/-- What holds after `k` run steps of a command that has at least that many to come. -/
theorem run_iterate (h : r.wellRun seed) {k : Nat} (hk : k ≤ r.remaining) :
    ((run seed)^[k] r).wellRun seed ∧ ((run seed)^[k] r).remaining + k = r.remaining ∧
    ((run seed)^[k] r).latched = r.latched ∧
    (((run seed)^[k] r).observe = r.observe ∨ ((run seed)^[k] r).completed) := by
  induction k with
  | zero => exact ⟨h, rfl, rfl, .inl rfl⟩
  | succ k ih =>
    obtain ⟨hwell, hleft, hlatched, hobs⟩ := ih (by omega)
    have hb := (remaining_pos_iff hwell).1 (by omega)
    have hnearer := run_remaining hwell hb
    rw [Function.iterate_succ_apply']
    refine ⟨run_wellRun hwell hb, by omega, (run_latched seed _).trans hlatched, ?_⟩
    have hshown := hobs.resolve_right fun hdone => absurd hb (by simp [hdone.1])
    rw [← hshown]
    exact run_observe seed _

/-- Until its last run step a command shows what it showed when it was accepted. -/
theorem run_iterate_observe (h : r.wellRun seed) {k : Nat} (hk : k < r.remaining) :
    ((run seed)^[k] r).observe = r.observe := by
  obtain ⟨hwell, hleft, -, hobs⟩ := run_iterate h hk.le
  have hb := (remaining_pos_iff hwell).1 (by omega)
  exact hobs.resolve_right fun hdone => absurd hb (by simp [hdone.1])

/-- 40_sequencer.md R68: the last run step completes the command with its function-level result. -/
theorem run_iterate_completes {i : Instr} (h : r.wellRun seed) (hb : r.busy = true) (hi : r.command = some i) :
    ((run seed)^[r.remaining] r).observe = ⟨false, true, (result seed i).1, (result seed i).2⟩ := by
  obtain ⟨hwell, hleft, hlatched, hobs⟩ := run_iterate h (Nat.le_refl _)
  generalize (run seed)^[r.remaining] r = q at hwell hleft hlatched hobs ⊢
  have hidle : ¬ q.busy = true := by rw [← remaining_pos_iff hwell]; omega
  obtain ⟨hqb, hqd⟩ := hobs.resolve_left fun hsame => hidle ((congrArg Observation.busy hsame).trans hb)
  have hcommand : q.command = some i := (command_of_latched hlatched).trans hi
  obtain ⟨-, -, -, -, hresult⟩ := hwell
  have hshown := hresult hqd
  rw [hcommand, Option.map_some, Option.some_inj] at hshown
  rw [Regs.observe, hqb, hqd, hshown]

end

/-! From any idle block: its hidden registers may hold anything, and no run step sees them. -/

/-- Registers that show the same two results and hold nothing else. -/
def Regs.cleaned (r : Regs) : Regs := { Regs.reset with r0 := r.r0, r1 := r.r1 }

theorem wellRun_of_idle {seed : SeedTable} {r : Regs} (hb : r.busy = false) (hd : r.done = false)
    (hc : r.controlInRange) : r.wellRun seed :=
  ⟨⟨by simp [hb], hc⟩, by simp [hb], by simp [hb], by simp [hb], by simp [hd]⟩

theorem cleaned_wellRun (seed : SeedTable) (r : Regs) : r.cleaned.wellRun seed :=
  wellRun_of_idle rfl rfl ⟨Nat.zero_le 4, Nat.zero_le 4, Nat.zero_le 32⟩

/-- An accept step writes the flags whatever they were, and every register its operation reads. -/
theorem acceptOf_inStep_cleaned (i : Instr) (r : Regs) : (acceptOf i r).inStep (acceptOf i r.cleaned) := by
  have hflags : acceptOf i r = acceptOf i { r with busy := false, done := false } := by cases i <;> rfl
  rw [hflags]
  exact acceptOf_inStep i rfl

theorem acceptOf_command (i : Instr) (r : Regs) : (acceptOf i r).command = some i := by
  rw [Regs.command, acceptOf_opr, acceptOf_xa, acceptOf_xb, decodeCommand_op]

/-- 70_reset_and_hazards.md R146: `LAT` counts the run steps from the accept step on. -/
theorem acceptOf_remaining (i : Instr) (r : Regs) : (acceptOf i r).remaining = latency i := by
  have hb := acceptOf_busy i r
  cases i with
  | clz a b => exact remaining_clz hb rfl
  | mulw a b => exact remaining_loop hb (.inl rfl)
  | mul a b => exact remaining_loop hb (.inr (.inl rfl))
  | divrem a b => exact remaining_loop hb (.inr (.inr rfl))
  | rsqrt a b => exact remaining_rsqrtStart hb rfl rfl

/-- Blocks in step stay so until the first of them is idle. -/
theorem run_iterate_inStep {seed : SeedTable} {r q : Regs} (h : r.inStep q) {k : Nat}
    (hbusy : ∀ j < k, ((run seed)^[j] q).busy = true) :
    ((run seed)^[k] r).inStep ((run seed)^[k] q) := by
  induction k with
  | zero => exact h
  | succ k ih =>
    have hk := ih fun j hj => hbusy j (hj.trans (Nat.lt_succ_self k))
    rw [Function.iterate_succ_apply', Function.iterate_succ_apply']
    exact run_inStep seed (hk.busy.trans (hbusy k (Nat.lt_succ_self k))) hk

section
variable (seed : SeedTable) (i : Instr) (r : Regs)

theorem acceptOf_observe : (acceptOf i r).observe = ⟨true, false, r.r0, r.r1⟩ := by simp [Regs.observe]

/-- From any registers a command shows, run step by run step, what it shows from cleaned ones. -/
theorem run_acceptOf_observe_cleaned {k : Nat} (hk : k ≤ latency i) :
    ((run seed)^[k] (acceptOf i r)).observe = ((run seed)^[k] (acceptOf i r.cleaned)).observe := by
  refine (run_iterate_inStep (acceptOf_inStep_cleaned i r) fun j hj => ?_).observe
  have hwell := acceptOf_wellRun i (cleaned_wellRun seed r)
  have hobs := run_iterate_observe hwell (k := j) (by rw [acceptOf_remaining]; omega)
  exact (congrArg Observation.busy hobs).trans (acceptOf_busy i r.cleaned)

/-- 40_sequencer.md R68: before the completion the old results are shown. -/
theorem run_acceptOf_observe {k : Nat} (hk : k < latency i) :
    ((run seed)^[k] (acceptOf i r)).observe = ⟨true, false, r.r0, r.r1⟩ := by
  have hwell := acceptOf_wellRun i (cleaned_wellRun seed r)
  rw [run_acceptOf_observe_cleaned seed i r hk.le,
    run_iterate_observe hwell (by rw [acceptOf_remaining]; exact hk), acceptOf_observe]
  rfl

/-- 40_sequencer.md R68: after `LAT` run steps the function-level result is. -/
theorem run_acceptOf_completes :
    ((run seed)^[latency i] (acceptOf i r)).observe = ⟨false, true, (result seed i).1, (result seed i).2⟩ := by
  have hwell := acceptOf_wellRun i (cleaned_wellRun seed r)
  have hdone := run_iterate_completes hwell (acceptOf_busy i _) (acceptOf_command i _)
  rw [acceptOf_remaining] at hdone
  rw [run_acceptOf_observe_cleaned seed i r (Nat.le_refl _), hdone]

end

end Sys2Proof.Machine

/-! The pseudo-commands (30_encoding.md R59): a command and the `WAIT` for it. -/

namespace Sys2Proof.Machine

/-- A `WAIT` lets the command in execution run until it completes. -/
theorem reaches_wait {s : State} {rest : List ScriptLine} (hs : s.script = .wait :: rest) {k : Nat}
    (hrunning : ∀ j < k, ((run s.seed)^[j] s.regs).busy = true ∧ ((run s.seed)^[j] s.regs).done = false) :
    s.reaches k (s.withRegs ((run s.seed)^[k] s.regs)) := by
  induction k generalizing s with
  | zero => exact (State.reaches_zero s _).2 rfl
  | succ k ih =>
    obtain ⟨hb, hd⟩ := hrunning 0 (Nat.succ_pos k)
    have hrest := ih (s := s.withRegs (run s.seed s.regs)) hs fun j hj => hrunning (j + 1) (Nat.succ_lt_succ hj)
    exact (State.reaches_succ (step_wait_busy hs hd hb) k _).2 hrest

/-- A command offered to an idle block and waited for: `LAT + 1` steps later the script is over and the result is
shown. -/
theorem reaches_offer_wait (s : State) (i : Instr) (hb : s.regs.busy = false) :
    ∃ t, State.reaches { s with script := [.step (Input.offer i), .wait] } (latency i + 1) t ∧
      nextInput t.regs.done t.script = none ∧
      t.observe = ⟨false, true, (result s.seed i).1, (result s.seed i).2⟩ := by
  have haccept : step { s with script := [.step (Input.offer i), .wait] } =
      .next { s with regs := acceptOf i s.regs, script := [.wait] } := by
    have hoffer := step_drive_offer i { s with script := [.wait] }
    simp only [hb, Bool.false_eq_true, if_false] at hoffer
    exact hoffer
  have hwait := reaches_wait (s := { s with regs := acceptOf i s.regs, script := [.wait] }) (k := latency i) rfl
    fun j hj => by
      have hobs := run_acceptOf_observe s.seed i s.regs hj
      exact ⟨congrArg Observation.busy hobs, congrArg Observation.done hobs⟩
  have hshown := run_acceptOf_completes s.seed i s.regs
  refine ⟨_, (State.reaches_succ haccept _ _).2 hwait, ?_, hshown⟩
  have hdone : ((run s.seed)^[latency i] (acceptOf i s.regs)).done = true := congrArg Observation.done hshown
  rw [State.withRegs_regs, hdone]
  rfl

/-- The two halves of a product, read as one number (30_encoding.md R59). -/
theorem hiWord_append_loWord (v : DWord) : hiWord v ++ loWord v = v := BitVec.extractLsb'_append_extractLsb'

/-- Settles O46: each expansion is a command and a `WAIT`, and the reading picks from its result. -/
theorem pseudoCommandsDeliver : Obligations.PseudoCommandsDeliver := by
  unfold Obligations.PseudoCommandsDeliver
  intro s a b c hb
  refine ⟨?_, ?_, ?_, ?_⟩
  · obtain ⟨t, hreach, hover, hobs⟩ := reaches_offer_wait s (.divrem a b) hb
    exact ⟨t, hreach, hover, by rw [hobs]; rfl⟩
  · obtain ⟨t, hreach, hover, hobs⟩ := reaches_offer_wait s (.divrem a b) hb
    exact ⟨t, hreach, hover, by rw [hobs]; rfl⟩
  · obtain ⟨t, hreach, hover, hobs⟩ := reaches_offer_wait s (.mulw a a) hb
    refine ⟨t, hreach, hover, ?_⟩
    rw [hobs]
    exact congrArg Reading.dword (hiWord_append_loWord (mulw a a))
  · obtain ⟨t, hreach, hover, hobs⟩ := reaches_offer_wait s c.instr hb
    exact ⟨t, hreach, hover, by rw [hobs]; rfl⟩

end Sys2Proof.Machine

/-! The sequencer (40_sequencer.md R61 to R67): what one edge does with the inputs that stand on the ports. -/

namespace Sys2Proof.Machine

/-! The accept rule of R63, one for all operations, is the accept step of each. -/

theorem acceptedBy_offer (i : Instr) (r : Regs) : acceptedBy (Input.offer i) r = acceptOf i r := by
  cases i <;> rfl

/-- The accept rule reads `op`, `a` and `b` alone. -/
theorem acceptedBy_of_offered {inp : Input} {i : Instr} (h : inp.offered = some i) (r : Regs) :
    acceptedBy inp r = acceptOf i r := by
  obtain ⟨hop, ha, hb⟩ := Input.ports_of_offered h
  have hsame : acceptedBy inp r = acceptedBy (Input.offer i) r := by
    simp only [acceptedBy, Input.offer, hop, ha, hb]
  rw [hsame, acceptedBy_offer]

/-- 40_sequencer.md R63: an idle block accepts the command it is offered. -/
theorem exec_idle (i : Instr) {s : State} (hb : s.regs.busy = false) :
    exec i s = .next (s.withRegs (acceptOf i s.regs)) := by
  rw [exec_eq, hb]
  rfl

/-- 40_sequencer.md R67: a busy block loses the command it is offered and takes its run step. -/
theorem exec_busy (i : Instr) {s : State} (hb : s.regs.busy = true) :
    exec i s = .next (s.withRegs (run s.seed s.regs)) := by
  rw [exec_eq, hb]
  rfl

/-! The rest of the cascade, with the inputs given. -/

theorem step_drive_reset {s : State} {inp : Input} (hrst : inp.rst = true) :
    step (s.drive inp) = .next (s.withRegs Regs.reset) := by
  rw [step_eq, State.ports_drive, State.sampled_drive, if_pos hrst]

/-- 40_sequencer.md R65, R67: a busy block takes its run step, whatever else stands on the ports. -/
theorem step_drive_busy {s : State} {inp : Input} (hrst : inp.rst = false) (hb : s.regs.busy = true) :
    step (s.drive inp) = .next (s.withRegs (run s.seed s.regs)) := by
  rw [step_eq, State.ports_drive, State.sampled_drive, State.drive_regs, State.drive_seed, hrst, hb]
  rfl

/-- 40_sequencer.md R63, R64: an idle block accepts what is offered and else stays as it is. -/
theorem step_drive_idle {s : State} {inp : Input} (hrst : inp.rst = false) (hb : s.regs.busy = false) :
    step (s.drive inp) = .next (s.withRegs
      (if inp.start = true ∧ inp.op.toNat ≤ 4 then acceptedBy inp s.regs else s.regs)) := by
  split
  next hoffer =>
    obtain ⟨i, hi⟩ := Option.ne_none_iff_exists'.1 ((Input.offered_ne_none_iff inp).2 hoffer)
    rw [step_drive_offered hrst hi, exec_idle i hb, acceptedBy_of_offered hi]
  next hoffer =>
    have hnone : inp.offered = none := not_ne_iff.1 (mt (Input.offered_ne_none_iff inp).1 hoffer)
    rw [step_drive_unoffered hrst hb hnone, State.withRegs_self]

/-- 20_memory.md R38: no operation but `RSQRT` reads the ROM. -/
theorem run_seed_unread (seed seed' : SeedTable) {r : Regs} (hne : r.opr ≠ 4) : run seed r = run seed' r := by
  rcases run_cases seed r with ⟨h, hq⟩ | ⟨h, hq⟩ | ⟨h, hq⟩ | ⟨h, hq⟩ | ⟨h, -⟩ | ⟨h, hq⟩
  · rw [hq, run_clz seed' h]
  · rw [hq, run_mulw seed' h]
  · rw [hq, run_mul seed' h]
  · rw [hq, run_divrem seed' h]
  · exact absurd h hne
  · rw [hq, run_reserved seed' h]

/-- Settles O6, branch by branch of the cascade. -/
theorem stepIsTheCascade : Obligations.StepIsTheCascade := by
  unfold Obligations.StepIsTheCascade
  refine ⟨fun s inp => ?_, fun r seed seed' hne => run_seed_unread seed seed' hne⟩
  split_ifs with hrst hb hoffer
  · exact step_drive_reset hrst
  · rw [step_drive_idle (Bool.eq_false_iff.2 hrst) hb, if_pos hoffer]
  · rw [step_drive_idle (Bool.eq_false_iff.2 hrst) hb, if_neg hoffer]
  · exact step_drive_busy (Bool.eq_false_iff.2 hrst) (Bool.eq_true_of_not_eq_false hb)

/-- Settles O4: sampling moves the script on, and the step is then `exec` of what was on the ports. -/
theorem stepRunsTheOfferedCommand : Obligations.StepRunsTheOfferedCommand := by
  unfold Obligations.StepRunsTheOfferedCommand
  refine ⟨fun s i hrst hstart hdecode _ => ⟨?_, State.sampled_regs s, State.sampled_seed s⟩, fun s i => ?_⟩
  · rw [step_eq, exec_eq, hrst, Input.offered_of_ok hstart hdecode, State.sampled_regs, State.sampled_seed]
    rfl
  · exact step_drive_offered rfl (Input.offered_offer i)

/-- Settles O7: the accept rule is the accept step of each operation, and it keeps the old results. -/
theorem execAcceptsWhenIdle : Obligations.ExecAcceptsWhenIdle := by
  unfold Obligations.ExecAcceptsWhenIdle
  intro i s hb
  rw [acceptedBy_offer]
  exact ⟨exec_idle i hb, acceptOf_observe i s.regs⟩

/-- Settles O15: the run step of `CLZ` is its completion. -/
theorem clzRunStepCompletes : Obligations.ClzRunStepCompletes := by
  unfold Obligations.ClzRunStepCompletes
  intro a b s hb hop
  rw [exec_busy _ hb, run_clz s.seed hop]
  rfl

/-- Settles O12: the run step reads none of the inputs, and a completed command leaves the block idle. -/
theorem runningBlockIgnoresItsInputs : Obligations.RunningBlockIgnoresItsInputs := by
  unfold Obligations.RunningBlockIgnoresItsInputs
  intro s inp hb hrst
  have hrun := step_drive_busy hrst hb
  refine ⟨fun inp' hrst' => ?_, fun inp' hrst' => step_drive_reset hrst',
    _, hrun, run_xa _ _, run_xb _ _, run_opr _ _, fun hidle i => ?_⟩
  · rw [hrun, step_drive_busy hrst' hb]
  · rw [step_drive_offered rfl (Input.offered_offer i), exec_idle i hidle, acceptedBy_offer]

/-! Past the end of the script (40_sequencer.md R62). -/

theorem State.ports_empty {s : State} (h : s.script = []) : s.ports = Config.envInput s.envTick := by
  rw [State.ports, h, nextInput_nil]

theorem State.sampled_empty {s : State} (h : s.script = []) : s.sampled = { s with envTick := s.envTick + 1 } := by
  rw [State.sampled, h, nextInput_nil, ← h]

/-- Settles O13: both edges sample the same inputs and leave the same state to work on. -/
theorem pastTheScriptInputsAreFree : Obligations.PastTheScriptInputsAreFree := by
  unfold Obligations.PastTheScriptInputsAreFree
  intro s h
  rw [step_eq, step_eq, State.ports_drive, State.sampled_drive, State.ports_empty h, State.sampled_empty h]
  rfl

end Sys2Proof.Machine

/-! Runs under a list of given inputs: the idle block of 40_sequencer.md R64, and the command of R68. -/

namespace Sys2Proof.Machine

/-- Settles O8, by induction on the inputs: each edge leaves the block as it is. -/
theorem idleStepsChangeNothing : Obligations.IdleStepsChangeNothing := by
  unfold Obligations.IdleStepsChangeNothing
  intro s ins hb hins
  induction ins with
  | nil => exact (State.reaches_zero _ _).2 rfl
  | cons inp ins ih =>
    obtain ⟨⟨hrst, hidle⟩, hrest⟩ := List.forall_mem_cons.1 hins
    have hnone : inp.offered = none := hidle.elim Input.offered_not_start Input.offered_reserved
    have hstay : step { s with script := steps (inp :: ins) } = .next { s with script := steps ins } :=
      step_drive_unoffered (s := { s with script := steps ins }) hrst hb hnone
    exact (State.reaches_succ hstay _ _).2 (ih hrest)

/-- 40_sequencer.md R67: while a command runs, inputs without reset give run steps and nothing else. -/
theorem reaches_running {k : Nat} {ins : List Input} (hk : k ≤ ins.length) (hrst : ∀ inp ∈ ins, inp.rst = false)
    {s : State} (hbusy : ∀ j < k, ((run s.seed)^[j] s.regs).busy = true) :
    State.reaches { s with script := steps ins } k
      { s with script := steps (ins.drop k), regs := (run s.seed)^[k] s.regs } := by
  induction k generalizing s ins with
  | zero => exact (State.reaches_zero _ _).2 rfl
  | succ k ih =>
    cases ins with
    | nil => simp at hk
    | cons inp ins =>
      obtain ⟨hhead, hrest⟩ := List.forall_mem_cons.1 hrst
      have hrun : step { s with script := steps (inp :: ins) } =
          .next { s with script := steps ins, regs := run s.seed s.regs } :=
        step_drive_busy (s := { s with script := steps ins }) hhead (hbusy 0 (Nat.succ_pos k))
      exact (State.reaches_succ hrun _ _).2 <|
        ih (Nat.le_of_succ_le_succ hk) hrest (s := s.withRegs (run s.seed s.regs))
          fun j hj => hbusy (j + 1) (Nat.succ_lt_succ hj)

/-- An accepted command and the run steps after it, up to its completion. -/
theorem reaches_offer_running (s : State) (i : Instr) {ins : List Input} (hb : s.regs.busy = false)
    (hrst : ∀ inp ∈ ins, inp.rst = false) {k : Nat} (hk : k ≤ latency i) (hlen : k ≤ ins.length) :
    State.reaches { s with script := steps (Input.offer i :: ins) } (k + 1)
      { s with script := steps (ins.drop k), regs := (run s.seed)^[k] (acceptOf i s.regs) } := by
  have haccept : step { s with script := steps (Input.offer i :: ins) } =
      .next { s with script := steps ins, regs := acceptOf i s.regs } :=
    (step_drive_offered (s := { s with script := steps ins }) rfl (Input.offered_offer i)).trans (exec_idle i hb)
  refine (State.reaches_succ haccept _ _).2 <|
    reaches_running hlen hrst (s := s.withRegs (acceptOf i s.regs)) fun j hj => ?_
  exact congrArg Observation.busy (run_acceptOf_observe s.seed i s.regs (hj.trans_le hk))

/-- Settles O43: the run is the accept step and `LAT` run steps, and those show the old results until the last. -/
theorem commandRunsToItsResult : Obligations.CommandRunsToItsResult := by
  unfold Obligations.CommandRunsToItsResult
  intro s i ins hb hrst hlen
  have hreach {k : Nat} (hk : k ≤ latency i) := reaches_offer_running s i hb hrst hk (hlen ▸ hk)
  exact ⟨fun k hk => ⟨_, hreach hk.le, run_acceptOf_observe s.seed i s.regs hk⟩,
    _, hreach (Nat.le_refl _), run_acceptOf_completes s.seed i s.regs, rfl⟩

end Sys2Proof.Machine

/-! The contract of the leading-zero count (41_clz.md R70): the count says where the leading 1 stands, and the
exponent of 44_rsqrt.md R106 is that place. -/

namespace Sys2Proof.Machine

theorem clz32_le_32 (x : Word) : clz32 x ≤ 32 := by
  by_cases h : x = 0
  · rw [clz32, if_pos h]
  · exact (clz32_le_31 h).trans (by decide)

theorem clz32_eq_31_sub_exponentOf {x : Word} (h : x ≠ 0) : clz32 x = 31 - (exponentOf x).val := by
  have hle := clz32_le_31 h
  have he : (exponentOf x).val = 31 - clz32 x := rfl
  omega

theorem exponentOf_eq_log2 {x : Word} (h : x ≠ 0) : (exponentOf x).val = Nat.log2 x.toNat :=
  ((Nat.log2_eq_iff fun h0 => h (BitVec.eq_of_toNat_eq h0)).2 (exponentOf_bounds h)).symm

theorem getLsbD_exponentOf {x : Word} (h : x ≠ 0) : x.getLsbD (exponentOf x).val = true := by
  obtain ⟨hlow, hhigh⟩ := exponentOf_bounds h
  exact Nat.testBit_of_two_pow_le_and_two_pow_add_one_gt hlow hhigh

theorem getLsbD_above_exponentOf {x : Word} (h : x ≠ 0) {j : Nat} (hj : (exponentOf x).val < j) :
    x.getLsbD j = false :=
  Nat.testBit_lt_two_pow ((exponentOf_bounds h).2.trans_le (Nat.pow_le_pow_right (by decide) hj))

/-- Settles O24: the bounds that the cascade gives put the leading 1 at bit `31 - clz32 x`. -/
theorem clzCountsLeadingZeros : Obligations.ClzCountsLeadingZeros := by
  unfold Obligations.ClzCountsLeadingZeros
  refine ⟨rfl, fun x => ?_, fun x h => ?_⟩
  · have hle := clz32_le_32 x
    exact ⟨by omega, by rw [BitVec.toNat_ofNat, Nat.mod_eq_of_lt (by omega)]⟩
  · obtain ⟨hlow, hhigh⟩ := exponentOf_bounds h
    have hle := clz32_le_31 h
    have hwidth : (exponentOf x).val + 1 = 32 - clz32 x := (Nat.succ_sub hle).symm
    exact ⟨hle, getLsbD_exponentOf h, fun _ hj => getLsbD_above_exponentOf h hj,
      exponentOf_eq_log2 h ▸ clz32_eq_31_sub_exponentOf h, hlow, hwidth ▸ hhigh⟩

end Sys2Proof.Machine

/-! The widening and the narrow product (42_multiply.md R76 to R82): what one run step and the whole loop leave. -/

namespace Sys2Proof.Machine

/-! The functions: a product is its two words, and `MUL` keeps the low one. -/

theorem toNat_loWord (v : DWord) : (loWord v).toNat = v.toNat % 2 ^ 32 := by
  rw [loWord, BitVec.extractLsb'_toNat, Nat.shiftRight_zero]

/-- 30_encoding.md R54: a product read from its two words is the product. -/
theorem toNat_hiWord_loWord (v : DWord) : (hiWord v).toNat * 2 ^ 32 + (loWord v).toNat = v.toNat := by
  calc (hiWord v).toNat * 2 ^ 32 + (loWord v).toNat
      = (hiWord v ++ loWord v).toNat := by
        rw [BitVec.toNat_append, ← Nat.shiftLeft_eq, Nat.shiftLeft_add_eq_or_of_lt (loWord v).isLt]
    _ = v.toNat := congrArg BitVec.toNat (hiWord_append_loWord v)

/-- Settles O25: the exact product fits in 64 bits, so its two words lose nothing. -/
theorem productsAreExact : Obligations.ProductsAreExact := by
  unfold Obligations.ProductsAreExact
  intro a b
  refine ⟨toNat_mulw a b, BitVec.toNat_ofNat _ _, ?_, by decide, ?_, mul_eq_loWord_mulw a b⟩
  · rw [toNat_mulw, toNat_mulw]
    exact Nat.mul_le_mul (Nat.le_of_lt_succ a.isLt) (Nat.le_of_lt_succ b.isLt)
  · rw [toNat_hiWord_loWord, toNat_mulw]

/-! One run step (42_multiply.md R79 to R81). -/

/-- The bit that selects the addition is the multiplier's parity. -/
theorem mulAcc_eq_ite (r : Regs) : mulAcc r = if r.mplier.toNat % 2 = 1 then r.acc + r.mcand else r.acc := by
  have hbit : r.mplier.getLsbD 0 = decide (r.mplier.toNat % 2 = 1) := by
    rw [← BitVec.testBit_toNat, Nat.testBit_zero]
  simp only [mulAcc, hbit, decide_eq_true_eq]

theorem exec_mulw_busy (a b : Word) {s : State} (hb : s.regs.busy = true) (hop : s.regs.opr = 1) :
    exec (.mulw a b) s = .next (s.withRegs
      (if s.regs.cnt = 1 then complete (loWord (mulAcc s.regs)) (hiWord (mulAcc s.regs)) (mulStep s.regs)
       else mulStep s.regs)) := by
  rw [exec_busy _ hb, run_mulw s.seed hop]
  simp only [runMulw, lastIteration_iff]

theorem exec_mul_busy (a b : Word) {s : State} (hb : s.regs.busy = true) (hop : s.regs.opr = 2) :
    exec (.mul a b) s = .next (s.withRegs
      (if s.regs.cnt = 1 then complete (loWord (mulAcc s.regs)) 0 (mulStep s.regs) else mulStep s.regs)) := by
  rw [exec_busy _ hb, run_mul s.seed hop]
  simp only [runMul, lastIteration_iff]

/-- Settles O16: the run step is the iteration, and the completion when the counter stands at 1. -/
theorem multiplyRunStep : Obligations.MultiplyRunStep := by
  unfold Obligations.MultiplyRunStep
  intro a b s hb
  simp only [← mulAcc_eq_ite]
  exact ⟨exec_mulw_busy a b hb, exec_mul_busy a b hb⟩

/-! The whole loop (42_multiply.md R82). -/

/-- After `k` iterations `k` bits of the multiplier are used up. -/
theorem mulStep_iterate_multiplying (u v : Word) (r : Regs) {k : Nat} (hk : k ≤ 32) :
    (mulStep^[k] (mulInit u v r)).cnt.toNat = 32 - k ∧ (mulStep^[k] (mulInit u v r)).multiplying u v := by
  induction k with
  | zero => exact ⟨rfl, mulInit_multiplying u v r⟩
  | succ k ih =>
    obtain ⟨hcnt, hm⟩ := ih (by omega)
    have hl : (mulStep^[k] (mulInit u v r)).looping := ⟨by omega, by omega⟩
    rw [Function.iterate_succ_apply']
    refine ⟨?_, mulStep_multiplying hl hm⟩
    rw [mulStep_cnt, hl.toNat_cnt_sub_one, hcnt, Nat.sub_sub]

/-- The addition of an iteration never wraps: bit `32 - CNT` of the multiplier adds the multiplicand moved there. -/
theorem toNat_mulAcc_eq_add {u v : Word} {r : Regs} (hl : r.looping) (hm : r.multiplying u v) :
    (mulAcc r).toNat = r.acc.toNat +
      (if v.toNat.testBit (32 - r.cnt.toNat) then u.toNat * 2 ^ (32 - r.cnt.toNat) else 0) := by
  rw [toNat_mulAcc hl hm, hm.1, Nat.mod_pow_succ, ← Nat.toNat_testBit, Nat.mul_add]
  cases v.toNat.testBit (32 - r.cnt.toNat) <;> simp

theorem cnt_eq_one_iff (r : Regs) : r.cnt = 1 ↔ r.cnt.toNat = 1 := BitVec.toNat_inj.symm

/-- Settles O27: the invariant by induction on the number of iterations, and the last one from it. -/
theorem multiplyLoopInvariant : Obligations.MultiplyLoopInvariant := by
  unfold Obligations.MultiplyLoopInvariant
  intro u v r k hk
  obtain ⟨hcnt, hm⟩ := mulStep_iterate_multiplying u v r hk
  generalize mulStep^[k] (mulInit u v r) = q at hcnt hm
  have hdone : 32 - q.cnt.toNat = k := by omega
  have hinv := hm
  rw [Regs.multiplying, hdone] at hinv
  obtain ⟨hacc, hmcand, hmplier⟩ := hinv
  refine ⟨hcnt, hacc, hmcand, hmplier, fun hlt => ⟨?_, ?_⟩, fun hlast => ?_⟩
  · rw [lastIteration_iff, cnt_eq_one_iff]
    omega
  · rw [toNat_mulAcc_eq_add ⟨by omega, by omega⟩ hm, hdone]
  · exact mulAcc_last ((cnt_eq_one_iff q).2 (by omega)) hm

/-- What the last iteration leaves in the multiplier: the product, and every bit of the operands moved out. -/
theorem mulStep_last {u v : Word} {r : Regs} (hc : r.cnt = 1) (hm : r.multiplying u v) :
    mulStep r = { r with acc := mulw u v, mcand := BitVec.ofNat 64 (u.toNat * 2 ^ 32), mplier := 0, cnt := 0 } := by
  have hcnt : r.cnt - 1 = 0 := by rw [hc]; rfl
  obtain ⟨-, hmcand, hmplier⟩ := mulStep_multiplying (by simp [Regs.looping, hc]) hm
  simp only [mulStep_cnt, hcnt, mulStep_mcand, mulStep_mplier] at hmcand hmplier
  have hmcand' : r.mcand <<< 1 = BitVec.ofNat 64 (u.toNat * 2 ^ 32) :=
    BitVec.eq_of_toNat_eq (hmcand.trans (BitVec.toNat_ofNat _ _).symm)
  have hmplier' : r.mplier >>> 1 = 0 := hmplier.trans (BitVec.ushiftRight_eq_zero (Nat.le_refl 32))
  rw [mulStep, mulAcc_last hc hm, hmcand', hmplier', hcnt]

/-- Settles O17: the accumulator of the last iteration is the product, and the completion reads its words. -/
theorem multiplyCompletesWithTheProduct : Obligations.MultiplyCompletesWithTheProduct := by
  unfold Obligations.MultiplyCompletesWithTheProduct
  intro a b s hb hc hm
  refine ⟨fun hop => ⟨loWord (mulw s.regs.xa s.regs.xb), hiWord (mulw s.regs.xa s.regs.xb), ?_, ?_⟩,
    fun hop => ⟨loWord (mulw s.regs.xa s.regs.xb), ?_, ?_⟩⟩
  · rw [exec_mulw_busy a b hb hop, if_pos hc, mulAcc_last hc hm, mulStep_last hc hm]
    rfl
  · rw [toNat_hiWord_loWord, toNat_mulw]
  · rw [exec_mul_busy a b hb hop, if_pos hc, mulAcc_last hc hm, mulStep_last hc hm]
    rfl
  · rw [toNat_loWord, toNat_mulw]

end Sys2Proof.Machine

/-! Division (43_divide.md R90 to R96): the function, what one run step leaves, and what the whole loop leaves. -/

namespace Sys2Proof.Machine

/-! The function. -/

theorem toNat_divrem (a : Word) {b : Word} (hb : b ≠ 0) :
    (divrem a b).1.toNat = a.toNat / b.toNat ∧ (divrem a b).2.toNat = a.toNat % b.toNat := by
  rw [divrem, if_neg hb, BitVec.toNat_ofNat, BitVec.toNat_ofNat]
  exact ⟨Nat.mod_eq_of_lt ((Nat.div_le_self _ _).trans_lt a.isLt),
    Nat.mod_eq_of_lt ((Nat.mod_le _ _).trans_lt a.isLt)⟩

/-- Settles O26: with a nonzero divisor the words are the numbers' quotient and remainder, which are the only such
pair. -/
theorem divisionContract : Obligations.DivisionContract := by
  unfold Obligations.DivisionContract
  intro a b
  refine ⟨fun hb => ?_, if_pos rfl, ?_⟩
  · obtain ⟨hquo, hrem⟩ := toNat_divrem a hb
    have hpos : 0 < b.toNat := Nat.pos_of_ne_zero fun h0 => hb (BitVec.eq_of_toNat_eq h0)
    rw [hquo, hrem]
    refine ⟨Nat.div_add_mod' _ _, Nat.mod_lt _ hpos, fun q r hsum hlt => ?_⟩
    obtain ⟨hq, hr⟩ := (Nat.div_mod_unique hpos).2 ⟨by rw [Nat.mul_comm, Nat.add_comm, hsum], hlt⟩
    exact ⟨hq.symm, hr.symm⟩
  · unfold divrem
    split
    · rfl
    · simp

/-! One run step (43_divide.md R93, R94), in any state. -/

/-- Without the loop invariant the shift may lose bit 31 of the remainder; bit 31 of `DVD` comes in. -/
theorem toNat_divShifted_eq (r : Regs) :
    (divShifted r).toNat = 2 * r.rem.toNat % 2 ^ 32 + r.dvd.toNat / 2 ^ 31 := by
  have htop : r.dvd.toNat / 2 ^ 31 < 2 := Nat.div_lt_of_lt_mul r.dvd.isLt
  rw [divShifted, toNat_shiftLeft_one_or_ofBool, ← BitVec.testBit_toNat, Nat.toNat_testBit, Nat.mod_eq_of_lt htop]

/-- Without the loop invariant the shift may lose bit 31 of the quotient. -/
theorem toNat_divQuo_eq (r : Regs) : (divQuo r).toNat = 2 * r.quo.toNat % 2 ^ 32 + (divTake r).toNat :=
  toNat_shiftLeft_one_or_ofBool _ _

theorem divTake_iff_toNat (r : Regs) :
    divTake r = true ↔ r.xb.toNat ≠ 0 ∧ r.xb.toNat ≤ (divShifted r).toNat := by
  have hzero : r.xb = 0 ↔ r.xb.toNat = 0 := BitVec.toNat_inj.symm
  rw [divTake_iff, Ne, hzero]

theorem exec_divrem_busy (a b : Word) {s : State} (hb : s.regs.busy = true) (hop : s.regs.opr = 3) :
    exec (.divrem a b) s = .next (s.withRegs
      (if s.regs.cnt = 1 then
        complete (divQuo s.regs) (if s.regs.xb = 0 then 0 else divRem s.regs) (divStep s.regs)
       else divStep s.regs)) := by
  rw [exec_busy _ hb, run_divrem s.seed hop]
  simp only [runDivrem, lastIteration_iff]

/-- Settles O18: the run step is the division step, and the completion when the counter stands at 1. -/
theorem divremRunStep : Obligations.DivremRunStep := by
  unfold Obligations.DivremRunStep
  intro a b s hb hop
  refine ⟨divRem s.regs, divQuo s.regs, ?_, exec_divrem_busy a b hb hop⟩
  simp only [← toNat_divShifted_eq, ← divTake_iff_toNat]
  constructor
  · intro htake
    rw [toNat_divQuo_eq, toNat_divRem, htake]
    exact ⟨rfl, rfl⟩
  · intro htake
    rw [toNat_divQuo_eq, toNat_divRem, Bool.eq_false_of_not_eq_true htake]
    exact ⟨rfl, rfl⟩

/-! The whole loop (43_divide.md R95, R96). -/

/-- After `k` steps `k` bits of the dividend are consumed. The steps do not read `XA`, so it may be taken to be the
dividend that the loop was started with. -/
theorem divStep_iterate_dividing (a : Word) (r : Regs) {k : Nat} (hk : k ≤ 32) :
    (divStep^[k] (divInit a r)).cnt.toNat = 32 - k ∧ (divStep^[k] (divInit a r)).xb = r.xb ∧
    Regs.dividing { divStep^[k] (divInit a r) with xa := a } := by
  induction k with
  | zero => exact ⟨rfl, rfl, divInit_dividing (r := { r with xa := a }) rfl⟩
  | succ k ih =>
    obtain ⟨hcnt, hxb, hd⟩ := ih (by omega)
    have hl : (divStep^[k] (divInit a r)).looping := ⟨by omega, by omega⟩
    rw [Function.iterate_succ_apply']
    refine ⟨?_, hxb, divStep_dividing (r := { divStep^[k] (divInit a r) with xa := a }) hl hd⟩
    rw [divStep_cnt, hl.toNat_cnt_sub_one, hcnt, Nat.sub_sub]

/-- The running remainder never exceeds the dividend bits consumed, whatever the divisor. -/
theorem Regs.dividing.rem_le {r : Regs} (hd : r.dividing) : r.rem.toNat ≤ r.xa.toNat / 2 ^ r.cnt.toNat := by
  obtain ⟨-, hnonzero, hzero, -⟩ := hd
  by_cases hb : r.xb = 0
  · exact (hzero hb).2.le
  · obtain ⟨-, hrem, -⟩ := hnonzero hb
    exact hrem ▸ Nat.mod_le _ _

/-- 43_divide.md R96: with the next bit brought down it does not exceed the bits consumed after the step. -/
theorem toNat_divShifted_le {r : Regs} (hl : r.looping) (hd : r.dividing) :
    (divShifted r).toNat ≤ r.xa.toNat / 2 ^ (r.cnt.toNat - 1) := by
  have hrem := hd.rem_le
  rw [toNat_divShifted hl hd, div_two_pow_pred _ hl.1]
  omega

/-- Settles O28: the invariant by induction on the number of steps, and R96 from it. -/
theorem divideLoopInvariant : Obligations.DivideLoopInvariant := by
  unfold Obligations.DivideLoopInvariant
  intro a r k hk
  obtain ⟨hcnt, hxb, hd⟩ := divStep_iterate_dividing a r hk
  generalize divStep^[k] (divInit a r) = q at hcnt hxb hd
  have hdone : 32 - (32 - k) = k := by omega
  have hinv := hd
  simp only [Regs.dividing, hcnt, hdone, hxb] at hinv
  obtain ⟨hdvd, hnonzero, hzero, hrem⟩ := hinv
  refine ⟨hcnt, hdvd, hnonzero, hzero, fun hlt => ?_⟩
  have hl : q.looping := ⟨by omega, by omega⟩
  have hnext : q.cnt.toNat - 1 = 31 - k := by omega
  have hshift := toNat_divShifted (r := { q with xa := a }) hl hd
  have hle := toNat_divShifted_le (r := { q with xa := a }) hl hd
  simp only [hnext] at hshift hle
  have hhigh : q.rem.toNat < 2 ^ 31 := hrem.trans_le (Nat.pow_le_pow_right (by decide) (by omega))
  refine ⟨hrem, Nat.testBit_lt_two_pow hhigh, hshift.trans ?_, hle⟩
  cases a.toNat.testBit (31 - k) <;> rfl

/-- What the last step leaves in the divider: the whole remainder, `XA` itself for a zero divisor, and every bit of
the dividend moved out. -/
theorem divStep_last {r : Regs} (hc : r.cnt = 1) (hd : r.dividing) :
    divStep r = { r with
      rem := BitVec.ofNat 32 (if r.xb = 0 then r.xa.toNat else r.xa.toNat % r.xb.toNat),
      quo := divQuo r, dvd := 0, cnt := 0 } := by
  have hcnt : r.cnt - 1 = 0 := by rw [hc]; rfl
  obtain ⟨hdvd, hnonzero, hzero, -⟩ := divStep_dividing (by simp [Regs.looping, hc]) hd
  simp only [divStep_cnt, hcnt, divStep_dvd, divStep_rem, divStep_xa, divStep_xb] at hdvd hnonzero hzero
  have hdvd' : r.dvd <<< 1 = 0 := hdvd.trans (BitVec.shiftLeft_eq_zero (Nat.le_refl 32))
  have hrem : (divRem r).toNat = if r.xb = 0 then r.xa.toNat else r.xa.toNat % r.xb.toNat := by
    split
    next hb =>
      obtain ⟨-, hrem⟩ := hzero hb
      simpa using hrem
    next hb =>
      obtain ⟨-, hrem, -⟩ := hnonzero hb
      simpa using hrem
  rw [← hrem, BitVec.ofNat_toNat, BitVec.setWidth_eq, divStep, hdvd', hcnt]

/-- Settles O19: the completion hands over the function's pair, and the divider keeps what its last step left. -/
theorem divremCompletesWithTheQuotient : Obligations.DivremCompletesWithTheQuotient := by
  unfold Obligations.DivremCompletesWithTheQuotient
  intro a b s hb hop hc hd
  refine ⟨_, exec_divrem_busy a b hb hop, ?_, ?_⟩
  · rw [if_pos hc]
    exact divrem_last hc hd
  · rw [if_pos hc, divStep_last hc hd]
    rfl

end Sys2Proof.Machine

/-! The exponent and the fraction of an operand (44_rsqrt.md R106, R107). -/

namespace Sys2Proof.Machine

/-- Settles O30: the exponent is the place of the leading 1, and an operand from 2 on has it above bit 0. -/
theorem exponentIsTheLogarithm : Obligations.ExponentIsTheLogarithm := by
  unfold Obligations.ExponentIsTheLogarithm
  intro x hx
  have hne := ne_zero_of_two_le hx
  have hpos := one_le_exponentOf hx
  have hclz := clz32_eq_31_sub_exponentOf hne
  obtain ⟨hlow, hhigh⟩ := exponentOf_bounds hne
  exact ⟨by omega, hpos, by omega, rfl, exponentOf_eq_log2 hne, hlow, hhigh⟩

/-- What the leading 1 leaves of an operand is less than it. -/
theorem toNat_sub_two_pow_exponentOf_lt {x : Word} (h : x ≠ 0) :
    x.toNat - 2 ^ (exponentOf x).val < 2 ^ (exponentOf x).val := by
  obtain ⟨hlow, hhigh⟩ := exponentOf_bounds h
  rw [Nat.pow_succ] at hhigh
  omega

/-- The quotient has 16 bits, since the dividend is less than the divisor before the shift. -/
theorem fractionQuotient_lt {x : Word} (h : x ≠ 0) :
    (x.toNat - 2 ^ (exponentOf x).val) * 2 ^ 16 / 2 ^ (exponentOf x).val < 2 ^ 16 := by
  rw [Nat.div_lt_iff_lt_mul (by positivity), Nat.mul_comm (2 ^ 16)]
  exact Nat.mul_lt_mul_of_pos_right (toNat_sub_two_pow_exponentOf_lt h) (by decide)

/-- 44_rsqrt.md R107: neither the subtraction nor the shift by 16 wraps in 64 bits. -/
theorem toNat_fractionOf {x : Word} (h : x ≠ 0) :
    (fractionOf x).toNat = (x.toNat - 2 ^ (exponentOf x).val) * 2 ^ 16 / 2 ^ (exponentOf x).val := by
  have hlow := (exponentOf_bounds h).1
  have hquot := fractionQuotient_lt h
  have hx := x.isLt
  have hwide : (x.setWidth 64).toNat = x.toNat := BitVec.toNat_setWidth_of_le (by decide)
  have hpow : ((1 : DWord) <<< (exponentOf x).val).toNat = 2 ^ (exponentOf x).val := by
    rw [BitVec.toNat_shiftLeft, Nat.shiftLeft_eq, show (1 : DWord).toNat = 1 from rfl, Nat.one_mul,
      Nat.mod_eq_of_lt (by omega)]
  have hsub : (x.setWidth 64 - (1 : DWord) <<< (exponentOf x).val).toNat =
      x.toNat - 2 ^ (exponentOf x).val := by
    rw [BitVec.toNat_sub_of_le (by rw [BitVec.le_def, hwide, hpow]; exact hlow), hwide, hpow]
  rw [fractionOf, BitVec.toNat_setWidth, BitVec.toNat_ushiftRight, BitVec.toNat_shiftLeft, hsub,
    Nat.shiftLeft_eq, Nat.shiftRight_eq_div_pow, Nat.mod_eq_of_lt (a := _ * 2 ^ 16) (by omega),
    Nat.mod_eq_of_lt (by omega)]

theorem toNat_fractionOf_lt {x : Word} (h : x ≠ 0) : (fractionOf x).toNat < 2 ^ 16 :=
  toNat_fractionOf h ▸ fractionQuotient_lt h

/-- With the leading 1 at bit 16 or above, the fraction is the 16 bits below it. -/
theorem fractionOf_eq_extract {x : Word} (h : x ≠ 0) (he : 16 ≤ (exponentOf x).val) :
    fractionOf x = (x.extractLsb' ((exponentOf x).val - 16) 16).setWidth 32 := by
  have hfrac := toNat_fractionOf h
  have hlt := toNat_fractionOf_lt h
  have hlow := (exponentOf_bounds h).1
  apply BitVec.eq_of_toNat_eq
  rw [BitVec.toNat_setWidth_of_le (by decide), BitVec.extractLsb'_toNat, Nat.shiftRight_eq_div_pow]
  generalize hk : (exponentOf x).val - 16 = k at *
  have hpow : 2 ^ (exponentOf x).val = 2 ^ 16 * 2 ^ k := by rw [← Nat.pow_add]; congr 1; omega
  rw [hpow] at hfrac hlow
  have hx : x.toNat = x.toNat - 2 ^ 16 * 2 ^ k + 2 ^ 16 * 2 ^ k := by omega
  rw [Nat.mul_comm, Nat.mul_div_mul_left _ _ (by decide)] at hfrac
  rw [hx, Nat.add_mul_div_right _ _ (by positivity), ← hfrac, Nat.add_mod_right, Nat.mod_eq_of_lt hlt]

/-- With the leading 1 below bit 16, the fraction is the bits below it, moved up. -/
theorem toNat_fractionOf_of_lt {x : Word} (h : x ≠ 0) (he : (exponentOf x).val < 16) :
    (fractionOf x).toNat = x.toNat % 2 ^ (exponentOf x).val * 2 ^ (16 - (exponentOf x).val) := by
  obtain ⟨hlow, -⟩ := exponentOf_bounds h
  have hpow : 2 ^ 16 = 2 ^ (16 - (exponentOf x).val) * 2 ^ (exponentOf x).val := by
    rw [← Nat.pow_add, Nat.sub_add_cancel he.le]
  rw [toNat_fractionOf h, hpow, ← Nat.mul_assoc, Nat.mul_div_cancel _ (by positivity), Nat.mod_eq_sub_mod hlow,
    Nat.mod_eq_of_lt (toNat_sub_two_pow_exponentOf_lt h)]

/-- Settles O31: no 64-bit operation wraps, and the quotient by a power of two is a field of bits. -/
theorem fractionIsExact : Obligations.FractionIsExact := by
  unfold Obligations.FractionIsExact
  intro x hx
  have hne := ne_zero_of_two_le hx
  exact ⟨toNat_fractionOf hne, Nat.le_of_lt_succ (toNat_fractionOf_lt hne), fractionOf_eq_extract hne,
    toNat_fractionOf_of_lt hne⟩

end Sys2Proof.Machine

/-! The estimate before the first Newton iteration (44_rsqrt.md R107, R118). -/

namespace Sys2Proof.Machine

theorem romRead_exponentOf (seed : SeedTable) (x : Word) :
    romRead seed (exponentOf x) = seedX seed (exponentOf x).val := (seedX_of_lt seed (exponentOf x).isLt).symm

/-- The estimate when every operand is interpolated, as 44_rsqrt.md R118 allows. -/
def interpolated (seed : SeedTable) (x : Word) : Word :=
  romRead seed (exponentOf x) - mul (seedDelta seed x) (fractionOf x) >>> 16

/-- At a power of two there is nothing to interpolate. -/
theorem fractionOf_power {x : Word} (h : x ≠ 0) (hpower : x.toNat = 2 ^ (exponentOf x).val) : fractionOf x = 0 := by
  apply BitVec.eq_of_toNat_eq
  rw [toNat_fractionOf h, Nat.sub_eq_zero_of_le hpower.le, Nat.zero_mul, Nat.zero_div]
  rfl

theorem interpolated_of_fraction_zero (seed : SeedTable) {x : Word} (h : fractionOf x = 0) :
    interpolated seed x = romRead seed (exponentOf x) := by
  rw [interpolated, h, mul, show (0 : Word).toNat = 0 from rfl, Nat.mul_zero]
  simp

/-- 44_rsqrt.md R118: the short path for a power of two gives what the interpolation would. -/
theorem initialEstimate_eq_interpolated (seed : SeedTable) {x : Word} (h : x ≠ 0) :
    initialEstimate seed x = interpolated seed x := by
  unfold initialEstimate
  split
  next => rfl
  next hpower =>
    have hlow := (exponentOf_bounds h).1
    exact (interpolated_of_fraction_zero seed (fractionOf_power h (by omega))).symm

/-- 44_rsqrt.md R104: from 2 on the result is the second Newton iterate. -/
theorem rsqrt_of_two_le (seed : SeedTable) {x : Word} (h : 2 ≤ x.toNat) :
    rsqrt seed x = newton x (newton x (initialEstimate seed x)) :=
  congrArg Prod.fst (result_rsqrt (seed := seed) 0 h)

/-- Settles O33: at a power of two the fraction is 0, so the two paths meet. -/
theorem powerOfTwoMayTakeEitherPath : Obligations.PowerOfTwoMayTakeEitherPath := by
  unfold Obligations.PowerOfTwoMayTakeEitherPath
  intro seed x hx
  have hne := ne_zero_of_two_le hx
  refine ⟨fun hpower => ?_, ?_⟩
  · have hfrac := fractionOf_power hne hpower
    exact ⟨hfrac, interpolated_of_fraction_zero seed hfrac⟩
  · rw [rsqrt_of_two_le seed hx, initialEstimate_eq_interpolated seed hne]
    rfl

section
variable {seed : SeedTable} {x : Word}

/-- The entry of an operand from 2 on and the one after it, in a non-increasing table: the one beyond the last is 0. -/
theorem seedX_exponentOf_succ_le (hmono : ∀ i : Fin 31, seedX seed (i.val + 1) ≤ seedX seed i.val) (x : Word) :
    seedX seed ((exponentOf x).val + 1) ≤ seedX seed (exponentOf x).val := by
  by_cases hlast : (exponentOf x).val < 31
  · exact hmono ⟨_, hlast⟩
  · rw [show (exponentOf x).val = 31 by omega, seedX_last]
    exact BitVec.le_def.2 (Nat.zero_le _)

/-- The entry of an operand from 2 on is not entry 0, so the bound on the others holds for it. -/
theorem toNat_seedX_exponentOf_lt (hx : 2 ≤ x.toNat)
    (hbound : ∀ i : Fin 31, (seedX seed (i.val + 1)).toNat < 65536) :
    (seedX seed (exponentOf x).val).toNat < 65536 := by
  have hpos := one_le_exponentOf hx
  have hentry := hbound ⟨(exponentOf x).val - 1, by omega⟩
  rwa [Nat.sub_add_cancel hpos] at hentry

theorem toNat_seedDelta (hle : seedX seed ((exponentOf x).val + 1) ≤ seedX seed (exponentOf x).val) :
    (seedDelta seed x).toNat =
      (seedX seed (exponentOf x).val).toNat - (seedX seed ((exponentOf x).val + 1)).toNat := by
  rw [seedDelta, romRead_exponentOf, BitVec.toNat_sub_of_le hle]

/-- 44_rsqrt.md R107: with 16-bit entries the interpolation product fits in 32 bits. -/
theorem seedDelta_mul_fractionOf_lt (hne : x ≠ 0) (hdelta : (seedDelta seed x).toNat < 65536) :
    (seedDelta seed x).toNat * (fractionOf x).toNat < 2 ^ 32 :=
  calc (seedDelta seed x).toNat * (fractionOf x).toNat < 65536 * 2 ^ 16 :=
        Nat.mul_lt_mul'' hdelta (toNat_fractionOf_lt hne)
    _ = 2 ^ 32 := by norm_num

/-- What the interpolation takes off never reaches the distance between the two entries. -/
theorem seedDelta_mul_fractionOf_div_le (hne : x ≠ 0) :
    (seedDelta seed x).toNat * (fractionOf x).toNat / 2 ^ 16 ≤ (seedDelta seed x).toNat :=
  Nat.div_le_of_le_mul (Nat.mul_comm _ _ ▸ Nat.mul_le_mul_right _ (toNat_fractionOf_lt hne).le)

/-- 44_rsqrt.md R107: with nothing wrapping, the estimate is the entry less the rescaled product. -/
theorem toNat_initialEstimate (hne : x ≠ 0)
    (hle : seedX seed ((exponentOf x).val + 1) ≤ seedX seed (exponentOf x).val)
    (hbound : (seedX seed (exponentOf x).val).toNat < 65536) :
    (initialEstimate seed x).toNat = (seedX seed (exponentOf x).val).toNat -
      (seedDelta seed x).toNat * (fractionOf x).toNat / 2 ^ 16 := by
  have hdelta := toNat_seedDelta hle
  have hsmall := seedDelta_mul_fractionOf_div_le (seed := seed) hne
  have hoff : (mul (seedDelta seed x) (fractionOf x) >>> 16).toNat =
      (seedDelta seed x).toNat * (fractionOf x).toNat / 2 ^ 16 := by
    rw [BitVec.toNat_ushiftRight, mul, BitVec.toNat_ofNat, Nat.shiftRight_eq_div_pow,
      Nat.mod_eq_of_lt (seedDelta_mul_fractionOf_lt hne (by omega))]
  rw [initialEstimate_eq_interpolated seed hne, interpolated, romRead_exponentOf,
    BitVec.toNat_sub_of_le (by rw [BitVec.le_def, hoff]; omega), hoff]

end

/-- Settles O32: the part of the distance that is taken off is at most the whole of it. -/
theorem interpolationStaysBetweenEntries : Obligations.InterpolationStaysBetweenEntries := by
  unfold Obligations.InterpolationStaysBetweenEntries
  intro seed x hx hmono hbound
  have hne := ne_zero_of_two_le hx
  have hle := seedX_exponentOf_succ_le hmono x
  have hentry := toNat_seedX_exponentOf_lt hx hbound
  have hdelta := toNat_seedDelta hle
  have hestimate := toNat_initialEstimate hne hle hentry
  have hsmall := seedDelta_mul_fractionOf_div_le (seed := seed) hne
  refine ⟨hdelta, hle, seedDelta_mul_fractionOf_lt hne (by omega), ?_, ?_⟩
  · rw [BitVec.le_def, hestimate]
    rw [BitVec.le_def] at hle
    omega
  · rw [BitVec.le_def, hestimate]
    omega

end Sys2Proof.Machine

/-! The run steps of `RSQRT` in numbers (44_rsqrt.md R105, R110 to R114). -/

namespace Sys2Proof.Machine

/-! The run step, selected by the phase. -/

section
variable {seed : SeedTable} {r : Regs}

theorem runRsqrt_phase0 (h : r.ph = 0) : runRsqrt seed r = rsqrtPhase0 seed r := by simp [runRsqrt, h]
theorem runRsqrt_phase1 (h : r.ph = 1) : runRsqrt seed r = rsqrtPhase1 r := by simp [runRsqrt, h]
theorem runRsqrt_phase2 (h : r.ph = 2) : runRsqrt seed r = rsqrtPhase2 r := by simp [runRsqrt, h]
theorem runRsqrt_phase3 (h : r.ph = 3) : runRsqrt seed r = rsqrtPhase3 r := by simp [runRsqrt, h]
theorem runRsqrt_phase4 (h : r.ph = 4) : runRsqrt seed r = rsqrtPhase4 r := by simp [runRsqrt, h]

/-! Phase 0, case by case. -/

theorem rsqrtPhase0_zero (h : r.xa = 0) : rsqrtPhase0 seed r = complete Config.sentinel 0 r := by
  rw [rsqrtPhase0, if_pos h]

theorem rsqrtPhase0_one (h : r.xa = 1) : rsqrtPhase0 seed r = complete Config.fixedOne 0 r := by
  rw [rsqrtPhase0, if_neg (by rw [h]; decide), if_pos h]

theorem rsqrtPhase0_interpolate (hx : 2 ≤ r.xa.toNat) (h : r.xa.toNat ≠ 2 ^ (exponentOf r.xa).val) :
    rsqrtPhase0 seed r =
      { mulInit (seedDelta seed r.xa) (fractionOf r.xa) r with y := romRead seed (exponentOf r.xa), ph := 1 } := by
  rw [rsqrtPhase0, if_neg (ne_zero_of_two_le hx), if_neg (by bv_omega), if_pos h]

theorem rsqrtPhase0_power (hx : 2 ≤ r.xa.toNat) (h : r.xa.toNat = 2 ^ (exponentOf r.xa).val) :
    rsqrtPhase0 seed r =
      { mulInit (romRead seed (exponentOf r.xa)) (romRead seed (exponentOf r.xa)) r with
        y := romRead seed (exponentOf r.xa), ph := 2 } := by
  rw [rsqrtPhase0, if_neg (ne_zero_of_two_le hx), if_neg (by bv_omega), if_neg (not_not.2 h)]

/-- In each product phase a step before the last is an iteration of the multiplier. -/
theorem runRsqrt_inner (hph : r.ph = 1 ∨ r.ph = 2 ∨ r.ph = 3 ∨ r.ph = 4) (hc : r.cnt ≠ 1) :
    runRsqrt seed r = mulStep r := by
  have hmore : ¬ lastIteration r = true := mt (lastIteration_iff r).1 hc
  rcases hph with h | h | h | h
  · rw [runRsqrt_phase1 h, rsqrtPhase1, if_neg hmore]
  · rw [runRsqrt_phase2 h, rsqrtPhase2, if_neg hmore]
  · rw [runRsqrt_phase3 h, rsqrtPhase3, if_neg hmore]
  · rw [runRsqrt_phase4 h, rsqrtPhase4, if_neg hmore]

end

theorem exec_rsqrt_busy (a b : Word) {s : State} (hb : s.regs.busy = true) (hop : s.regs.opr = 4) :
    exec (.rsqrt a b) s = .next (s.withRegs (runRsqrt s.seed s.regs)) := by
  rw [exec_busy _ hb, run_rsqrt s.seed hop]

/-- Settles O34: the two tests that come first, in the function and in phase 0. -/
theorem rsqrtSpecialCases : Obligations.RsqrtSpecialCases := by
  unfold Obligations.RsqrtSpecialCases
  intro seed
  refine ⟨if_pos rfl, rfl, fun r hop hph => ?_⟩
  rw [run_rsqrt seed hop, runRsqrt_phase0 hph]
  exact ⟨rsqrtPhase0_zero, rsqrtPhase0_one⟩

theorem fractionOf_eq_ofNat {x : Word} (h : x ≠ 0) :
    fractionOf x =
      BitVec.ofNat 32 ((x.toNat - 2 ^ (exponentOf x).val) * 2 ^ 16 / 2 ^ (exponentOf x).val) := by
  rw [← toNat_fractionOf h, BitVec.ofNat_toNat, BitVec.setWidth_eq]

/-- Settles O20, by the four cases of phase 0. -/
theorem rsqrtPhase0Step : Obligations.RsqrtPhase0Step := by
  unfold Obligations.RsqrtPhase0Step
  intro a b s hb hop hph e
  rw [exec_rsqrt_busy a b hb hop, runRsqrt_phase0 hph]
  refine ⟨fun h => ?_, fun h => ?_, fun hx h => ?_, fun hx h => ?_⟩
  · rw [rsqrtPhase0_zero h]
    rfl
  · rw [rsqrtPhase0_one h]
    rfl
  · rw [rsqrtPhase0_interpolate hx h, fractionOf_eq_ofNat (ne_zero_of_two_le hx), seedDelta, romRead_exponentOf]
    rfl
  · rw [rsqrtPhase0_power hx h, romRead_exponentOf]
    rfl

/-- Settles O21: an inner step is one iteration of the multiplier, in each of the four phases. -/
theorem rsqrtPhaseInnerStep : Obligations.RsqrtPhaseInnerStep := by
  unfold Obligations.RsqrtPhaseInnerStep
  intro a b s hb hop hph hc
  rw [exec_rsqrt_busy a b hb hop, runRsqrt_inner hph hc, ← mulAcc_eq_ite]
  rfl

/-! The slices of a product that the closing actions read. -/

theorem toNat_rescale16 (v : DWord) : (rescale16 v).toNat = v.toNat / 2 ^ 16 % 2 ^ 32 := by
  rw [rescale16, BitVec.extractLsb'_toNat, Nat.shiftRight_eq_div_pow]

theorem toNat_rescale17 (v : DWord) : (rescale17 v).toNat = v.toNat / 2 ^ 17 % 2 ^ 32 := by
  rw [rescale17, BitVec.extractLsb'_toNat, Nat.shiftRight_eq_div_pow]

theorem loWord_mulw (u v : Word) : loWord (mulw u v) = BitVec.ofNat 32 (u.toNat * v.toNat) := by
  apply BitVec.eq_of_toNat_eq
  rw [toNat_loWord, toNat_mulw, BitVec.toNat_ofNat]

theorem rescale16_mulw (u v : Word) : rescale16 (mulw u v) = BitVec.ofNat 32 (u.toNat * v.toNat / 2 ^ 16) := by
  apply BitVec.eq_of_toNat_eq
  rw [toNat_rescale16, toNat_mulw, BitVec.toNat_ofNat]

theorem rescale17_mulw (u v : Word) : rescale17 (mulw u v) = BitVec.ofNat 32 (u.toNat * v.toNat / 2 ^ 17) := by
  apply BitVec.eq_of_toNat_eq
  rw [toNat_rescale17, toNat_mulw, BitVec.toNat_ofNat]

/-- 44_rsqrt.md R111: the interpolation reads the high half of the product's low word. -/
theorem loWord_mulw_shift (u v : Word) :
    loWord (mulw u v) >>> 16 = BitVec.ofNat 32 (u.toNat * v.toNat % 2 ^ 32 / 2 ^ 16) := by
  apply BitVec.eq_of_toNat_eq
  have hlt : u.toNat * v.toNat % 2 ^ 32 / 2 ^ 16 < 2 ^ 32 :=
    (Nat.div_le_self _ _).trans_lt (Nat.mod_lt _ (by decide))
  rw [BitVec.toNat_ushiftRight, toNat_loWord, toNat_mulw, BitVec.toNat_ofNat, Nat.shiftRight_eq_div_pow,
    Nat.mod_eq_of_lt hlt]

/-- Settles O22, phase by phase: the last iteration leaves the product in the accumulator, and the closing action
reads its slices. -/
theorem rsqrtPhaseClosingStep : Obligations.RsqrtPhaseClosingStep := by
  unfold Obligations.RsqrtPhaseClosingStep
  intro a b u v s hb hop hc hm p y1 y2 t' ynew
  have hlast := (lastIteration_iff s.regs).2 hc
  have hacc := mulAcc_last hc hm
  rw [exec_rsqrt_busy a b hb hop]
  refine ⟨fun hph => ?_, fun hph => ?_, fun hph => ?_, fun hph hiter => ?_, fun hph hiter => ?_⟩
  · rw [runRsqrt_phase1 hph, rsqrtPhase1, if_pos hlast, hacc, loWord_mulw_shift]
    rfl
  · rw [runRsqrt_phase2 hph, rsqrtPhase2, if_pos hlast, hacc, loWord_mulw]
    rfl
  · rw [runRsqrt_phase3 hph, rsqrtPhase3, if_pos hlast, hacc, rescale16_mulw]
    rfl
  · rw [runRsqrt_phase4 hph, rsqrtPhase4, if_pos hlast, hacc, hiter, rescale17_mulw]
    rfl
  · rw [runRsqrt_phase4 hph, rsqrtPhase4, if_pos hlast, hacc, hiter, rescale17_mulw, mulStep_last hc hm]
    rfl

/-- Settles O23: the completion keeps the machine's invariant, which says what a completed `RSQRT` shows. -/
theorem rsqrtCompletesWithTheEstimate : Obligations.RsqrtCompletesWithTheEstimate := by
  unfold Obligations.RsqrtCompletesWithTheEstimate
  intro a b s hwell hb hop hph hiter hc
  have hclosing : runRsqrt s.seed s.regs = complete (rescale17 (mulAcc s.regs)) 0
      { mulStep s.regs with y := rescale17 (mulAcc s.regs) } := by
    rw [runRsqrt_phase4 hph, rsqrtPhase4, if_pos ((lastIteration_iff s.regs).2 hc), hiter]
    rfl
  have hcommand : (runRsqrt s.seed s.regs).command = some (.rsqrt s.regs.xa s.regs.xb) :=
    (command_of_latched (runRsqrt_frame s.seed s.regs).1).trans (command_rsqrt hop)
  obtain ⟨-, -, -, -, hshown⟩ := runRsqrt_wellRun hwell hb hop
  rw [hcommand, hclosing] at hshown
  have hresult : rsqrt s.seed s.regs.xa = rescale17 (mulAcc s.regs) :=
    congrArg Prod.fst (Option.some.inj (hshown rfl))
  refine ⟨_, exec_rsqrt_busy a b hb hop, ?_⟩
  rw [hclosing, hresult]
  exact ⟨rfl, rfl, rfl, rfl, rfl, rfl, rfl, rfl, rfl⟩

end Sys2Proof.Machine

/-! A Newton iteration in numbers (44_rsqrt.md R108, R109). -/

namespace Sys2Proof.Machine

theorem toNat_newtonSquare (y : Word) : (newtonSquare y).toNat = y.toNat * y.toNat % 2 ^ 32 := by
  rw [newtonSquare, toNat_loWord, toNat_mulw]

theorem toNat_newtonFactor (x y2 : Word) :
    (newtonFactor x y2).toNat = (196608 + 2 ^ 32 - x.toNat * y2.toNat / 2 ^ 16 % 2 ^ 32) % 2 ^ 32 := by
  have hlt : x.toNat * y2.toNat / 2 ^ 16 % 2 ^ 32 < 2 ^ 32 := Nat.mod_lt _ (by decide)
  rw [newtonFactor, BitVec.toNat_sub, toNat_rescale16, toNat_mulw, show Config.fixedThree.toNat = 196608 from rfl,
    Nat.add_comm, ← Nat.add_sub_assoc hlt.le]

theorem toNat_newton (x y : Word) :
    (newton x y).toNat = y.toNat * (newtonFactor x (newtonSquare y)).toNat / 2 ^ 17 % 2 ^ 32 := by
  rw [newton, toNat_rescale17, toNat_mulw]

/-- Settles O35: the square, the factor and the product, each with its truncation. -/
theorem newtonInNumbers : Obligations.NewtonInNumbers := by
  unfold Obligations.NewtonInNumbers
  intro x y y2 xy2 t
  rw [toNat_newton, toNat_newtonFactor, toNat_newtonSquare]

end Sys2Proof.Machine

/-! A Newton iteration as a formula on numbers, when `y * y` fits in 32 bits and the subtraction does not wrap: only
the two right shifts lose anything (44_rsqrt.md R109, R116 item 1). -/

namespace Sys2Proof.Machine

/-- The iteration without truncation to 32 bits. -/
def newtonNat (x y : Nat) : Nat := y * (196608 - x * (y * y) / 2 ^ 16) / 2 ^ 17

theorem lt_two_pow_16_of_square {y : Nat} (h : y * y < 2 ^ 32) : y < 2 ^ 16 :=
  Nat.mul_self_lt_mul_self_iff.1 h

theorem newtonNat_lt (x : Nat) {y : Nat} (h : y * y < 2 ^ 32) : newtonNat x y < 2 ^ 32 :=
  calc newtonNat x y ≤ 2 ^ 16 * 196608 / 2 ^ 17 :=
        Nat.div_le_div_right (Nat.mul_le_mul (lt_two_pow_16_of_square h).le (Nat.sub_le _ _))
    _ < 2 ^ 32 := by norm_num

/-- When nothing is lost, the iteration of words is the formula. -/
theorem toNat_newton_eq_newtonNat {x y : Word} (hy : y.toNat * y.toNat < 2 ^ 32)
    (hp : x.toNat * (y.toNat * y.toNat) / 2 ^ 16 ≤ 196608) : (newton x y).toNat = newtonNat x.toNat y.toNat := by
  have hfactor : (196608 + 2 ^ 32 - x.toNat * (y.toNat * y.toNat) / 2 ^ 16) % 2 ^ 32 =
      196608 - x.toNat * (y.toNat * y.toNat) / 2 ^ 16 := by omega
  rw [toNat_newton, toNat_newtonFactor, toNat_newtonSquare, Nat.mod_eq_of_lt hy,
    Nat.mod_eq_of_lt (a := x.toNat * (y.toNat * y.toNat) / 2 ^ 16) (by omega), hfactor]
  exact Nat.mod_eq_of_lt (newtonNat_lt _ hy)

/-! With `p = x * y^2`, the iteration is `y * (3 * 2^32 - p) / 2^33` up to the two shifts. -/

section
variable {x y : Nat}

theorem scaled_newtonNat_add_le (h : x * (y * y) / 2 ^ 16 ≤ 196608) :
    2 ^ 33 * newtonNat x y + y * (x * (y * y)) ≤ y * (3 * 2 ^ 32 + 2 ^ 16) := by
  have hshift := Nat.div_mul_le_self (y * (196608 - x * (y * y) / 2 ^ 16)) (2 ^ 17)
  have hfactor : 2 ^ 16 * (196608 - x * (y * y) / 2 ^ 16) + x * (y * y) ≤ 3 * 2 ^ 32 + 2 ^ 16 := by omega
  calc 2 ^ 33 * newtonNat x y + y * (x * (y * y))
      ≤ 2 ^ 16 * (y * (196608 - x * (y * y) / 2 ^ 16)) + y * (x * (y * y)) := by unfold newtonNat; omega
    _ = y * (2 ^ 16 * (196608 - x * (y * y) / 2 ^ 16) + x * (y * y)) := by ring
    _ ≤ y * (3 * 2 ^ 32 + 2 ^ 16) := Nat.mul_le_mul_left y hfactor

theorem le_scaled_newtonNat_succ_add (x y : Nat) :
    y * (3 * 2 ^ 32) ≤ 2 ^ 33 * (newtonNat x y + 1) + y * (x * (y * y)) := by
  have hshift := Nat.lt_mul_div_succ (y * (196608 - x * (y * y) / 2 ^ 16)) (b := 2 ^ 17) (by decide)
  have hfactor : 3 * 2 ^ 32 ≤ 2 ^ 16 * (196608 - x * (y * y) / 2 ^ 16) + x * (y * y) := by omega
  calc y * (3 * 2 ^ 32) ≤ y * (2 ^ 16 * (196608 - x * (y * y) / 2 ^ 16) + x * (y * y)) :=
        Nat.mul_le_mul_left y hfactor
    _ = 2 ^ 16 * (y * (196608 - x * (y * y) / 2 ^ 16)) + y * (x * (y * y)) := by ring
    _ ≤ 2 ^ 33 * (newtonNat x y + 1) + y * (x * (y * y)) := by unfold newtonNat; omega

/-- An estimate that is not 0 and not far above the limit leads to one that is not 0. -/
theorem one_le_newtonNat (hx : x < 2 ^ 32) (hy : 1 ≤ y) (h : x * (y * y) < 2 ^ 33 + 2 ^ 16) :
    1 ≤ newtonNat x y := by
  rw [newtonNat, Nat.one_le_div_iff (by decide)]
  rcases hy.eq_or_lt with rfl | hy
  · omega
  · have hfactor : 2 ^ 16 ≤ 196608 - x * (y * y) / 2 ^ 16 := by omega
    calc 2 ^ 17 = 2 * 2 ^ 16 := by norm_num
      _ ≤ y * (196608 - x * (y * y) / 2 ^ 16) := Nat.mul_le_mul hy hfactor

end

/-! The estimate in units of the exact value: what an iteration does to it, from above and from below. -/

/-- The estimate `y / 2^16` divided by `1 / sqrt x`: 1 for an exact one. -/
noncomputable def relative (x y : Nat) : ℝ := √x * y / 2 ^ 16

theorem relative_nonneg (x y : Nat) : 0 ≤ relative x y := by unfold relative; positivity

theorem relative_sq (x y : Nat) : relative x y ^ 2 = (x * (y * y) : Nat) / 2 ^ 32 := by
  have hroot : √(x : ℝ) ^ 2 = x := Real.sq_sqrt x.cast_nonneg
  rw [relative, div_pow, mul_pow, hroot]
  push_cast
  ring

/-- One iteration in these units, from above: `u * (3 - u^2) / 2` and what the first shift adds. -/
theorem relative_newtonNat_le_formula {x y : Nat} (h : x * (y * y) / 2 ^ 16 ≤ 196608) :
    2 * relative x (newtonNat x y) ≤ relative x y * (3 + 1 / 2 ^ 16 - relative x y ^ 2) := by
  have hle : (2 ^ 33 * newtonNat x y + y * (x * (y * y)) : ℝ) ≤ y * (3 * 2 ^ 32 + 2 ^ 16) := by
    exact_mod_cast scaled_newtonNat_add_le h
  have hscaled := mul_le_mul_of_nonneg_left hle (Real.sqrt_nonneg x)
  rw [relative_sq]
  push_cast [relative]
  linarith

/-- One iteration in these units, from below: the second shift takes off less than 1. -/
theorem le_relative_newtonNat (x y : Nat) :
    relative x y * (3 - relative x y ^ 2) ≤ 2 * (relative x (newtonNat x y) + relative x 1) := by
  have hle : (y * (3 * 2 ^ 32) : ℝ) ≤ 2 ^ 33 * (newtonNat x y + 1) + y * (x * (y * y)) := by
    exact_mod_cast le_scaled_newtonNat_succ_add x y
  have hscaled := mul_le_mul_of_nonneg_left hle (Real.sqrt_nonneg x)
  rw [relative_sq]
  push_cast [relative]
  linarith

/-- No iteration ends above the exact value but for what its first shift adds, since `u * (3 * a^2 - u^2)` is at most
`2 * a^3` (here `a = 1 + 2^-18`). -/
theorem relative_newtonNat_le {x y : Nat} (h : x * (y * y) / 2 ^ 16 ≤ 196608) :
    relative x (newtonNat x y) ≤ 1 + 1 / 2 ^ 16 := by
  have hformula := relative_newtonNat_le_formula h
  have hnonneg := relative_nonneg x y
  have hmax : 0 ≤ (relative x y - (1 + 1 / 2 ^ 18)) ^ 2 * (relative x y + 2 * (1 + 1 / 2 ^ 18)) := by positivity
  nlinarith

/-- An iteration squares the distance from the exact value, and its second shift takes off less than 1. -/
theorem one_sub_relative_newtonNat_le {x y : Nat} {d : ℝ} (h : |1 - relative x y| ≤ d) :
    1 - relative x (newtonNat x y) ≤ d ^ 2 * (3 + d) / 2 + relative x 1 := by
  have hformula := le_relative_newtonNat x y
  have hsq : (1 - relative x y) ^ 2 ≤ d ^ 2 := sq_le_sq' (neg_le_of_abs_le h) (le_of_abs_le h)
  have hnear : relative x y + 2 ≤ 3 + d := by linarith [neg_le_of_abs_le h]
  have hproduct : (1 - relative x y) ^ 2 * (relative x y + 2) ≤ d ^ 2 * (3 + d) :=
    mul_le_mul hsq hnear (by linarith [relative_nonneg x y]) (sq_nonneg d)
  linarith

/-- 44_rsqrt.md R115 item 4: the absolute error is the relative one divided by `sqrt x`. -/
theorem div_sub_inv_sqrt_eq {x : Nat} (hx : 1 ≤ x) (n : Nat) :
    (n : ℝ) / 65536 - 1 / √(x : ℝ) = (relative x n - 1) / √(x : ℝ) := by
  have hroot : √(x : ℝ) ≠ 0 := (Real.sqrt_pos.2 (by exact_mod_cast hx)).ne'
  unfold relative
  field_simp
  ring

end Sys2Proof.Machine

/-! The estimator with the default table (20_memory.md R41; 44_rsqrt.md R115, R116): both iterations start from an
estimate that is not 0, has 16 bits, and is at most `sqrt 2` times the exact value. -/

namespace Sys2Proof.Machine

/-- An estimate from which an iteration loses no bit and does not give 0. -/
structure NewtonSafe (x y : Nat) : Prop where
  pos : 1 ≤ y
  square : y * y < 2 ^ 32
  product : x * (y * y) < 2 ^ 33 + 2 ^ 16

section
variable {x y : Nat}

theorem NewtonSafe.factor (h : NewtonSafe x y) : x * (y * y) / 2 ^ 16 ≤ 196608 := by
  have := h.product
  omega

/-- 44_rsqrt.md R116: after an iteration `x * y^2` is at most `2^32` and what the first shift adds. -/
theorem NewtonSafe.product_newtonNat_le (h : NewtonSafe x y) :
    x * (newtonNat x y * newtonNat x y) ≤ 65537 * 65537 := by
  have hrel := relative_newtonNat_le h.factor
  have hsq := pow_le_pow_left₀ (relative_nonneg x (newtonNat x y)) hrel 2
  rw [relative_sq, div_le_iff₀ (by positivity)] at hsq
  have : ((x * (newtonNat x y * newtonNat x y) : Nat) : ℝ) ≤ (65537 * 65537 : Nat) := hsq.trans (by norm_num)
  exact_mod_cast this

theorem NewtonSafe.newtonNat_le_46341 (hx : 2 ≤ x) (h : NewtonSafe x y) : newtonNat x y ≤ 46341 := by
  have hproduct := h.product_newtonNat_le
  by_contra hgt
  have hsquare : 46342 * 46342 ≤ newtonNat x y * newtonNat x y := Nat.mul_le_mul (by omega) (by omega)
  have := Nat.mul_le_mul hx hsquare
  omega

/-- An iteration keeps an estimate safe. -/
theorem NewtonSafe.next (hx : 2 ≤ x) (hlt : x < 2 ^ 32) (h : NewtonSafe x y) : NewtonSafe x (newtonNat x y) where
  pos := one_le_newtonNat hlt h.pos h.product
  square := (Nat.mul_le_mul (h.newtonNat_le_46341 hx) (h.newtonNat_le_46341 hx)).trans_lt (by norm_num)
  product := h.product_newtonNat_le.trans_lt (by norm_num)

end

/-! The first estimate. -/

/-- Entry `e` of the default table as a number. -/
def defaultEntry (e : Nat) : Nat := (seedX Config.defaultSeed e).toNat

/-- The entries but the first are not 0, and their square is hardly more than `2^32 / 2^e`. -/
theorem defaultEntry_bounds (i : Fin 31) :
    1 ≤ defaultEntry (i.val + 1) ∧
    2 ^ (i.val + 1) * (defaultEntry (i.val + 1) * defaultEntry (i.val + 1)) ≤ 2 ^ 32 + 2 ^ 14 := by
  revert i; decide

section
variable {x : Word}

/-- 44_rsqrt.md R107, for the default table. -/
theorem toNat_initialEstimate_default (hx : 2 ≤ x.toNat) :
    (initialEstimate Config.defaultSeed x).toNat = defaultEntry (exponentOf x).val -
      (defaultEntry (exponentOf x).val - defaultEntry ((exponentOf x).val + 1)) * (fractionOf x).toNat / 2 ^ 16 := by
  have hle := seedX_exponentOf_succ_le defaultSeed_nonincreasing x
  rw [toNat_initialEstimate (ne_zero_of_two_le hx) hle (toNat_seedX_exponentOf_lt hx defaultSeed_lt),
    toNat_seedDelta hle]
  rfl

theorem defaultEntry_exponentOf_bounds (hx : 2 ≤ x.toNat) :
    1 ≤ defaultEntry (exponentOf x).val ∧
    2 ^ (exponentOf x).val * (defaultEntry (exponentOf x).val * defaultEntry (exponentOf x).val) ≤
      2 ^ 32 + 2 ^ 14 := by
  have hpos := one_le_exponentOf hx
  have hentry := defaultEntry_bounds ⟨(exponentOf x).val - 1, by omega⟩
  rwa [Nat.sub_add_cancel hpos] at hentry

theorem initialEstimate_default_safe (hx : 2 ≤ x.toNat) :
    NewtonSafe x.toNat (initialEstimate Config.defaultSeed x).toNat := by
  have hne := ne_zero_of_two_le hx
  obtain ⟨hone, hsquare⟩ := defaultEntry_exponentOf_bounds hx
  have hbound : defaultEntry (exponentOf x).val < 65536 := toNat_seedX_exponentOf_lt hx defaultSeed_lt
  have hhigh := (exponentOf_bounds hne).2
  rw [toNat_initialEstimate_default hx]
  generalize defaultEntry (exponentOf x).val = entry at *
  generalize defaultEntry ((exponentOf x).val + 1) = next
  have hoff : (entry - next) * (fractionOf x).toNat / 2 ^ 16 < entry := by
    rw [Nat.div_lt_iff_lt_mul (by decide)]
    exact Nat.mul_lt_mul_of_le_of_lt (Nat.sub_le _ _) (toNat_fractionOf_lt hne) hone
  generalize (entry - next) * (fractionOf x).toNat / 2 ^ 16 = off at hoff
  have hless : (entry - off) * (entry - off) ≤ entry * entry := Nat.mul_le_mul (Nat.sub_le _ _) (Nat.sub_le _ _)
  refine ⟨by omega, hless.trans_lt ?_, ?_⟩
  · exact (Nat.mul_lt_mul'' hbound hbound).trans_eq (by norm_num)
  · calc x.toNat * ((entry - off) * (entry - off)) ≤ 2 ^ ((exponentOf x).val + 1) * (entry * entry) :=
          Nat.mul_le_mul hhigh.le hless
      _ = 2 * (2 ^ (exponentOf x).val * (entry * entry)) := by rw [Nat.pow_succ]; ring
      _ < 2 ^ 33 + 2 ^ 16 := by omega

/-! Both iterations. -/

theorem toNat_newton_of_safe {y : Word} (h : NewtonSafe x.toNat y.toNat) :
    (newton x y).toNat = newtonNat x.toNat y.toNat := toNat_newton_eq_newtonNat h.square h.factor

theorem newton_safe {y : Word} (hx : 2 ≤ x.toNat) (h : NewtonSafe x.toNat y.toNat) :
    NewtonSafe x.toNat (newton x y).toNat := by
  rw [toNat_newton_of_safe h]
  exact h.next hx x.isLt

end

/-- Settles O38: the first estimate is safe, and the first iteration keeps it so. -/
theorem noBitIsLostWithTheDefaultSeed : Obligations.NoBitIsLostWithTheDefaultSeed := by
  unfold Obligations.NoBitIsLostWithTheDefaultSeed
  intro x y hx hy
  have hstart := initialEstimate_default_safe hx
  have hsafe : NewtonSafe x.toNat y.toNat := by
    rcases hy with rfl | rfl
    · exact hstart
    · exact newton_safe hx hstart
  exact ⟨hsafe.square, hsafe.factor, newtonNat_lt _ hsafe.square, toNat_newton_of_safe hsafe⟩

/-- With the default table the result from 2 on is between 1 and 46341. -/
theorem toNat_rsqrt_default_bounds {x : Word} (hx : 2 ≤ x.toNat) :
    1 ≤ (rsqrt Config.defaultSeed x).toNat ∧ (rsqrt Config.defaultSeed x).toNat ≤ 46341 := by
  have hsafe := newton_safe hx (initialEstimate_default_safe hx)
  rw [rsqrt_of_two_le _ hx]
  refine ⟨(newton_safe hx hsafe).pos, ?_⟩
  rw [toNat_newton_of_safe hsafe]
  exact hsafe.newtonNat_le_46341 hx

/-- Settles O39: from 2 on the range leaves the sentinel out, and 1 has its own result. -/
theorem resultRangeWithTheDefaultSeed : Obligations.ResultRangeWithTheDefaultSeed := by
  unfold Obligations.ResultRangeWithTheDefaultSeed
  refine ⟨fun x => toNat_rsqrt_default_bounds, rsqrt_defaultSeed_power 0, fun x => ⟨fun h => ?_, fun h => ?_⟩⟩
  · by_contra hzero
    by_cases hone : x = 1
    · rw [hone] at h
      exact absurd h (by decide)
    · have hle := (toNat_rsqrt_default_bounds (two_le_toNat hzero hone)).2
      rw [h] at hle
      exact absurd hle (by decide)
  · rw [h]
    rfl

end Sys2Proof.Machine

/-! The tolerance (44_rsqrt.md R115 item 4, 90_conflicts.md C4) with the default table. Above `2^18` the exact value
is itself within it. Below, the first estimate is within 1/7 of the exact value, and two iterations bring it close. -/

namespace Sys2Proof.Machine

/-- Up to exponent 17 an entry is within a thousandth of the exact value for `2^e`, and the distance to the next entry
is near `1 - 1 / sqrt 2` of it. -/
theorem defaultEntry_near (i : Fin 17) :
    999 * 2 ^ 32 ≤ 1000 * (2 ^ (i.val + 1) * (defaultEntry (i.val + 1) * defaultEntry (i.val + 1))) ∧
    28 * defaultEntry (i.val + 1) ≤ 100 * (defaultEntry (i.val + 1) - defaultEntry (i.val + 1 + 1)) ∧
    100 * (defaultEntry (i.val + 1) - defaultEntry (i.val + 1 + 1)) ≤ 30 * defaultEntry (i.val + 1) ∧
    181 ≤ defaultEntry (i.val + 1) := by
  revert i; decide

/-- The two truncations of the interpolation: what is taken off is at most the part `m / p` of the distance `d` between
the entries, and less than 2 below it. -/
theorem interpolation_truncates {m p d : Nat} (hp : 0 < p) (hd : d ≤ 2 ^ 16) :
    d * (m * 2 ^ 16 / p) / 2 ^ 16 * p ≤ d * m ∧ d * m ≤ (d * (m * 2 ^ 16 / p) / 2 ^ 16 + 2) * p := by
  have hfrac := Nat.div_mul_le_self (m * 2 ^ 16) p
  have hfrac' := (Nat.lt_mul_div_succ (m * 2 ^ 16) hp).le
  generalize m * 2 ^ 16 / p = f at *
  have hoff := Nat.div_mul_le_self (d * f) (2 ^ 16)
  have hoff' := (Nat.lt_mul_div_succ (d * f) (b := 2 ^ 16) (by decide)).le
  generalize d * f / 2 ^ 16 = q at *
  constructor
  · refine Nat.le_of_mul_le_mul_right ?_ (show 0 < 2 ^ 16 by decide)
    calc q * p * 2 ^ 16 = q * 2 ^ 16 * p := by ring
      _ ≤ d * f * p := Nat.mul_le_mul_right p hoff
      _ = d * (f * p) := by ring
      _ ≤ d * (m * 2 ^ 16) := Nat.mul_le_mul_left d hfrac
      _ = d * m * 2 ^ 16 := by ring
  · refine Nat.le_of_mul_le_mul_right ?_ (show 0 < 2 ^ 16 by decide)
    calc d * m * 2 ^ 16 = d * (m * 2 ^ 16) := by ring
      _ ≤ d * (p * (f + 1)) := Nat.mul_le_mul_left d hfrac'
      _ = (d * f + d) * p := by ring
      _ ≤ (2 ^ 16 * (q + 1) + 2 ^ 16) * p := Nat.mul_le_mul_right p (Nat.add_le_add hoff' hd)
      _ = (q + 2) * p * 2 ^ 16 := by ring

/-- A chord near that of `1 / sqrt` over `[1, 2]` stays near the curve. -/
theorem chord_product_bounds {t η : ℝ} (ht0 : 0 ≤ t) (ht1 : t ≤ 1) (hlow : 1 - 3 / 10 * t ≤ η)
    (hhigh : η ≤ 1012 / 1000 - 28 / 100 * t) : 8 / 10 ≤ (1 + t) * η ^ 2 ∧ (1 + t) * η ^ 2 ≤ 124 / 100 := by
  constructor
  · have hsq : (1 - 3 / 10 * t) ^ 2 ≤ η ^ 2 := pow_le_pow_left₀ (by linarith) hlow 2
    nlinarith [mul_le_mul_of_nonneg_left hsq (by linarith : 0 ≤ 1 + t), mul_nonneg ht0 (sub_nonneg.2 ht1),
      pow_nonneg ht0 3]
  · have hsq : η ^ 2 ≤ (1012 / 1000 - 28 / 100 * t) ^ 2 := pow_le_pow_left₀ (by linarith) hhigh 2
    nlinarith [mul_le_mul_of_nonneg_left hsq (by linarith : 0 ≤ 1 + t), mul_nonneg (sq_nonneg t) (sub_nonneg.2 ht1),
      sq_nonneg (t - 1 / 2)]

section
variable {p m s d : Nat}

/-- The interpolated estimate, with both truncations, in units of the entry `s`. -/
theorem interpolated_ratio_bounds (hp : 0 < p) (hs : 181 ≤ s) (hd : d ≤ 2 ^ 16)
    (hlow : 28 * s ≤ 100 * d) (hhigh : 100 * d ≤ 30 * s) :
    1 - 3 / 10 * (m / p : ℝ) ≤ (s - (d * (m * 2 ^ 16 / p) / 2 ^ 16 : Nat)) / s ∧
    (s - (d * (m * 2 ^ 16 / p) / 2 ^ 16 : Nat)) / s ≤ 1012 / 1000 - 28 / 100 * (m / p : ℝ) := by
  obtain ⟨hless, hmore⟩ := interpolation_truncates (m := m) hp hd
  generalize d * (m * 2 ^ 16 / p) / 2 ^ 16 = q at *
  rify at hp hs hlow hhigh hless hmore
  have ht0 : (0 : ℝ) ≤ m / p := by positivity
  have hq : (q : ℝ) ≤ d * (m / p) := by rwa [← mul_div_assoc, le_div_iff₀ hp]
  have hq' : (d : ℝ) * (m / p) ≤ q + 2 := by rwa [← mul_div_assoc, div_le_iff₀ hp]
  constructor
  · rw [le_div_iff₀ (by linarith)]
    nlinarith
  · rw [div_le_iff₀ (by linarith)]
    nlinarith

/-- Its square times the operand `p + m`, against the square of the entry times `p`. -/
theorem interpolated_product_bounds (hp : 0 < p) (hm : m ≤ p) (hs : 181 ≤ s) (hd : d ≤ 2 ^ 16)
    (hlow : 28 * s ≤ 100 * d) (hhigh : 100 * d ≤ 30 * s) :
    8 / 10 * (p * (s * s) : ℝ) ≤ (p + m) * (s - (d * (m * 2 ^ 16 / p) / 2 ^ 16 : Nat)) ^ 2 ∧
    (p + m) * (s - (d * (m * 2 ^ 16 / p) / 2 ^ 16 : Nat)) ^ 2 ≤ 124 / 100 * (p * (s * s) : ℝ) := by
  obtain ⟨hη, hη'⟩ := interpolated_ratio_bounds (m := m) hp hs hd hlow hhigh
  generalize d * (m * 2 ^ 16 / p) / 2 ^ 16 = q at *
  rify at hp hm hs
  have hs0 : (s : ℝ) ≠ 0 := by linarith
  have hproduct : ((p + m) * (s - q) ^ 2 : ℝ) = (1 + m / p) * ((s - q) / s) ^ 2 * (p * (s * s)) := by
    field_simp
  obtain ⟨hge, hle⟩ := chord_product_bounds (by positivity) ((div_le_one hp).2 hm) hη hη'
  rw [hproduct]
  exact ⟨mul_le_mul_of_nonneg_right hge (by positivity), mul_le_mul_of_nonneg_right hle (by positivity)⟩

end

/-- The entries that the operands below `2^18` read. -/
theorem defaultEntry_exponentOf_near {x : Word} (hx : 2 ≤ x.toNat) (hlt : x.toNat < 2 ^ 18) :
    999 * 2 ^ 32 ≤
      1000 * (2 ^ (exponentOf x).val * (defaultEntry (exponentOf x).val * defaultEntry (exponentOf x).val)) ∧
    28 * defaultEntry (exponentOf x).val ≤
      100 * (defaultEntry (exponentOf x).val - defaultEntry ((exponentOf x).val + 1)) ∧
    100 * (defaultEntry (exponentOf x).val - defaultEntry ((exponentOf x).val + 1)) ≤
      30 * defaultEntry (exponentOf x).val ∧
    181 ≤ defaultEntry (exponentOf x).val := by
  have hpos := one_le_exponentOf hx
  have hpow := (exponentOf_bounds (ne_zero_of_two_le hx)).1
  have he : (exponentOf x).val < 18 := (Nat.pow_lt_pow_iff_right (by decide)).1 (hpow.trans_lt hlt)
  have hnear := defaultEntry_near ⟨(exponentOf x).val - 1, by omega⟩
  simp only [Nat.sub_add_cancel hpos] at hnear
  exact hnear

/-- Below `2^18` the square of the first estimate is within a quarter of `2^32 / x`. -/
theorem initialEstimate_default_product {x : Word} (hx : 2 ≤ x.toNat) (hlt : x.toNat < 2 ^ 18) :
    3 / 4 * 2 ^ 32 ≤ (x.toNat * (initialEstimate Config.defaultSeed x).toNat ^ 2 : ℝ) ∧
    (x.toNat * (initialEstimate Config.defaultSeed x).toNat ^ 2 : ℝ) ≤ 5 / 4 * 2 ^ 32 := by
  have hne := ne_zero_of_two_le hx
  have hpow := (exponentOf_bounds hne).1
  have hsquare := (defaultEntry_exponentOf_bounds hx).2
  have hsafe := (initialEstimate_default_safe hx).pos
  have hbound : defaultEntry (exponentOf x).val < 65536 := toNat_seedX_exponentOf_lt hx defaultSeed_lt
  have hrest := (toNat_sub_two_pow_exponentOf_lt hne).le
  obtain ⟨hexact, hlow, hhigh, hs⟩ := defaultEntry_exponentOf_near hx hlt
  have hproduct := interpolated_product_bounds (by positivity) hrest hs (by omega) hlow hhigh
  have hestimate := toNat_initialEstimate_default hx
  rw [toNat_fractionOf hne] at hestimate
  generalize (initialEstimate Config.defaultSeed x).toNat = y at *
  generalize (_ : Nat) * _ / 2 ^ 16 = off at *
  have hy : (y : ℝ) = defaultEntry (exponentOf x).val - off :=
    eq_sub_of_add_eq (by exact_mod_cast (by omega : y + off = defaultEntry (exponentOf x).val))
  have hsum : ((2 ^ (exponentOf x).val : Nat) + (x.toNat - 2 ^ (exponentOf x).val : Nat) : ℝ) = x.toNat := by
    exact_mod_cast Nat.add_sub_of_le hpow
  rw [hsum, ← hy] at hproduct
  rify at hexact hsquare
  push_cast at hproduct
  constructor <;> linarith

/-- Below `2^18` the first estimate is within 1/7 of the exact value. -/
theorem initialEstimate_default_near {x : Word} (hx : 2 ≤ x.toNat) (hlt : x.toNat < 2 ^ 18) :
    |1 - relative x.toNat (initialEstimate Config.defaultSeed x).toNat| ≤ 14 / 100 := by
  obtain ⟨hlow, hhigh⟩ := initialEstimate_default_product hx hlt
  have hsq := relative_sq x.toNat (initialEstimate Config.defaultSeed x).toNat
  have hnonneg := relative_nonneg x.toNat (initialEstimate Config.defaultSeed x).toNat
  push_cast at hsq
  rw [abs_le]
  constructor <;> nlinarith

/-! Two iterations from there. -/

theorem relative_one_le {x : Nat} (h : x < 2 ^ 18) : relative x 1 ≤ 1 / 128 := by
  rify at h
  have hroot : √(x : ℝ) ≤ 2 ^ 9 := Real.sqrt_le_iff.2 ⟨by norm_num, by linarith⟩
  unfold relative
  push_cast
  linarith

/-- The unit of the result is not negligible against the error: `sqrt x` is at least `sqrt 2`. -/
theorem le_relative_one {x : Nat} (h : 2 ≤ x) : 141 / 100 / 65536 ≤ relative x 1 := by
  rify at h
  have hroot : 141 / 100 ≤ √(x : ℝ) := Real.le_sqrt_of_sq_le (by linarith)
  unfold relative
  push_cast
  linarith

/-- Below `2^18` the result is less than 131 units under the exact value. -/
theorem relative_newtonNat_twice {x y : Nat} (hx : 2 ≤ x) (hlt : x < 2 ^ 18) (hsafe : NewtonSafe x y)
    (hnear : |1 - relative x y| ≤ 14 / 100) :
    1 ≤ relative x (newtonNat x (newtonNat x y)) + 131 * relative x 1 := by
  have hunit := relative_one_le hlt
  have hunit' := le_relative_one hx
  have hbelow := one_sub_relative_newtonNat_le hnear
  have habove := relative_newtonNat_le hsafe.factor
  have hfirst : |1 - relative x (newtonNat x y)| ≤ 39 / 1000 := abs_le.2 ⟨by linarith, by linarith⟩
  have hsecond := one_sub_relative_newtonNat_le hfirst
  linarith

/-- From `2^18` on 131 units are as much as the exact value itself. -/
theorem one_le_relative_one {x : Nat} (h : 2 ^ 18 ≤ x) : 1 ≤ 131 * relative x 1 := by
  rify at h
  have hroot : 2 ^ 9 ≤ √(x : ℝ) := Real.le_sqrt_of_sq_le (by linarith)
  unfold relative
  push_cast
  linarith

/-- With the default table the result is at most `2^-16` of the exact value above it and 131 units below it. -/
theorem relative_rsqrt_default {x : Word} (hx : 2 ≤ x.toNat) :
    relative x.toNat (rsqrt Config.defaultSeed x).toNat ≤ 1 + 1 / 2 ^ 16 ∧
    1 ≤ relative x.toNat (rsqrt Config.defaultSeed x).toNat + 131 * relative x.toNat 1 := by
  have hstart := initialEstimate_default_safe hx
  have hsafe := newton_safe hx hstart
  rw [rsqrt_of_two_le _ hx, toNat_newton_of_safe hsafe]
  refine ⟨relative_newtonNat_le hsafe.factor, ?_⟩
  rcases lt_or_ge x.toNat (2 ^ 18) with hlt | hge
  · rw [toNat_newton_of_safe hstart]
    exact relative_newtonNat_twice hx hlt hstart (initialEstimate_default_near hx hlt)
  · linarith [one_le_relative_one hge, relative_nonneg x.toNat (newtonNat x.toNat
      (newton x (initialEstimate Config.defaultSeed x)).toNat)]

/-- Settles O40: the relative error is bounded on both sides, and a unit of the result is `2^-16`. -/
theorem estimatorWithinTolerance : Obligations.EstimatorWithinTolerance := by
  unfold Obligations.EstimatorWithinTolerance
  intro x hx
  rcases hx.eq_or_lt with hone | htwo
  · have hx1 : x = 1 := BitVec.eq_of_toNat_eq hone.symm
    have hresult : (rsqrt Config.defaultSeed 1).toNat = 65536 := rfl
    rw [← hone, hx1, hresult]
    norm_num
  · obtain ⟨habove, hbelow⟩ := relative_rsqrt_default htwo
    have hroot : 1 ≤ √(x.toNat : ℝ) := Real.one_le_sqrt.2 (by exact_mod_cast hx)
    have hunit : relative x.toNat 1 = √(x.toNat : ℝ) / 2 ^ 16 := by rw [relative, Nat.cast_one, mul_one]
    rw [div_sub_inv_sqrt_eq hx, abs_div, abs_of_pos (by linarith : 0 < √(x.toNat : ℝ)), div_le_iff₀ (by linarith),
      abs_le]
    constructor <;> linarith

end Sys2Proof.Machine

/-! A command abandoned by a reset step (70_reset_and_hazards.md R140, R141). -/

namespace Sys2Proof.Machine

/-- A cleared block stays cleared at an edge that resets it again or offers nothing. -/
theorem step_drive_cleared {s : State} {inp : Input} (hregs : s.regs = Regs.reset)
    (h : inp.rst = true ∨ inp.start = false) : step (s.drive inp) = .next s := by
  cases hrst : inp.rst with
  | true => rw [step_drive_reset hrst, ← hregs, State.withRegs_self]
  | false =>
    have hstart : inp.start = false := h.resolve_left (by simp [hrst])
    exact step_drive_unoffered hrst (by rw [hregs]; rfl) (Input.offered_not_start hstart)

/-- Only the script moves on while a cleared block is reset or offered nothing. -/
theorem reaches_cleared {s : State} (hregs : s.regs = Regs.reset) {k : Nat} {ins : List Input}
    (hins : ∀ inp ∈ ins, inp.rst = true ∨ inp.start = false) (hk : k ≤ ins.length) :
    State.reaches { s with script := steps ins } k { s with script := steps (ins.drop k) } := by
  induction k generalizing ins with
  | zero => exact (State.reaches_zero _ _).2 rfl
  | succ k ih =>
    cases ins with
    | nil => simp at hk
    | cons inp ins =>
      obtain ⟨hhead, hrest⟩ := List.forall_mem_cons.1 hins
      have hstay : step { s with script := steps (inp :: ins) } = .next { s with script := steps ins } :=
        step_drive_cleared (s := { s with script := steps ins }) hregs hhead
      exact (State.reaches_succ hstay _ _).2 (ih hrest (Nat.le_of_succ_le_succ hk))

/-- Settles O11: the reset step clears every register, and nothing that follows sets one. -/
theorem abandonedCommandNeverCompletes : Obligations.AbandonedCommandNeverCompletes := by
  unfold Obligations.AbandonedCommandNeverCompletes
  intro s inp ins k _ hrst hins hk
  have hreset : step { s with script := steps (inp :: ins) } =
      .next { s with script := steps ins, regs := Regs.reset } :=
    step_drive_reset (s := { s with script := steps ins }) hrst
  exact ⟨_, (State.reaches_succ hreset k _).2 (reaches_cleared (s := s.withRegs Regs.reset) rfl hins hk), rfl⟩

end Sys2Proof.Machine

/-! The run-step counts (70_reset_and_hazards.md R146; 44_rsqrt.md R119). -/

namespace Sys2Proof.Machine

/-- An operand is a power of two exactly when nothing stands below its leading 1. -/
theorem power_iff_exponentOf {x : Word} (h : x ≠ 0) :
    (∃ e : Nat, x.toNat = 2 ^ e) ↔ x.toNat = 2 ^ (exponentOf x).val := by
  constructor
  · rintro ⟨e, he⟩
    rw [exponentOf_eq_log2 h, he, Nat.log2_two_pow]
  · exact fun hpower => ⟨_, hpower⟩

theorem latency_rsqrt_of_two_le {a : Word} (b : Word) (ha : 2 ≤ a.toNat) :
    latency (.rsqrt a b) = if a.toNat = 2 ^ (exponentOf a).val then 193 else 225 := by
  rw [latency, if_neg (by omega)]

/-- Settles O36: the class of an operand from 2 on is told by its exponent. -/
theorem latencyByOperandClass : Obligations.LatencyByOperandClass := by
  unfold Obligations.LatencyByOperandClass
  intro a b
  refine ⟨rfl, rfl, rfl, rfl, ?_, ?_, ?_⟩
  · rintro (rfl | rfl) <;> rfl
  · rintro ⟨e, hpos, he⟩
    have htwo : 2 ≤ a.toNat := he ▸ Nat.le_self_pow (Nat.one_le_iff_ne_zero.1 hpos) 2
    rw [latency_rsqrt_of_two_le b htwo, if_pos ((power_iff_exponentOf (ne_zero_of_two_le htwo)).1 ⟨e, he⟩)]
  · intro hzero hpower
    have hone : a ≠ 1 := fun h => hpower 0 (by rw [h]; rfl)
    rw [latency_rsqrt_of_two_le b (two_le_toNat hzero hone), if_neg (hpower _)]

end Sys2Proof.Machine

/-! Progress (70_reset_and_hazards.md R151): which run step completes the command. -/

namespace Sys2Proof.Machine

section
variable {seed : SeedTable} {r : Regs}

/-- A run step with nothing left after it is a completion. -/
theorem run_completed (h : r.wellRun seed) (hb : r.busy = true) (hlast : r.remaining = 1) :
    (run seed r).completed := by
  have hnearer := run_remaining h hb
  have hidle : ¬ (run seed r).busy = true := by
    rw [← remaining_pos_iff (run_wellRun h hb)]
    omega
  exact (run_observe seed r).resolve_left fun hsame => hidle ((congrArg Observation.busy hsame).trans hb)

/-- With run steps left after it the command goes on. -/
theorem run_busy (h : r.wellRun seed) (hb : r.busy = true) (hmore : r.remaining ≠ 1) :
    (run seed r).busy = true ∧ (run seed r).done = false := by
  have hwell := run_wellRun h hb
  have hnearer := run_remaining h hb
  have hbusy := (remaining_pos_iff hwell).1 (by omega)
  exact ⟨hbusy, hwell.not_done hbusy⟩

end

/-- With a command in execution and no reset every edge is a run step (40_sequencer.md R65, R67). -/
theorem step_busy {s : State} (hb : s.regs.busy = true) (hrst : s.ports.rst = false) :
    step s = .next (s.sampled.withRegs (run s.seed s.regs)) := by
  rw [step_eq, hrst, hb]
  rfl

/-- Settles O44: the step is a run step, and the count that is left says whether the block is still busy. -/
theorem everyRunStepIsProgress : Obligations.EveryRunStepIsProgress := by
  unfold Obligations.EveryRunStepIsProgress
  intro s hwell hb hrst
  exact ⟨_, step_busy hb hrst, run_remaining hwell hb, run_completed hwell hb, run_busy hwell hb⟩

end Sys2Proof.Machine

/-! One command held on the ports (70_reset_and_hazards.md R148): rounds of `LAT + 1` edges, each an accept step
and the run steps to its completion. -/

namespace Sys2Proof.Machine

/-- The machine with `start` held high on one command for the next `n` edges. -/
def State.holding (s : State) (i : Instr) (n : Nat) : State :=
  { s with script := List.replicate n (.step (Input.offer i)) }

/-- What 70_reset_and_hazards.md R148 says of the registers `k` edges after an idle block was first offered the
command. -/
def heldStartShows (seed : SeedTable) (i : Instr) (k : Nat) (r : Regs) : Prop :=
  (k % (latency i + 1) = 0 → 0 < k → r.observe = ⟨false, true, (result seed i).1, (result seed i).2⟩) ∧
  (k % (latency i + 1) ≠ 0 → r.busy = true ∧ r.done = false)

theorem heldStartShows_zero (seed : SeedTable) (i : Instr) (r : Regs) : heldStartShows seed i 0 r := by
  simp [heldStartShows]

/-- The edges of the first round. -/
theorem heldStartShows_firstRound (seed : SeedTable) (i : Instr) (r : Regs) {k : Nat} (hk : k ≤ latency i) :
    heldStartShows seed i (k + 1) ((run seed)^[k] (acceptOf i r)) := by
  rcases hk.eq_or_lt with rfl | hlt
  · exact ⟨fun _ _ => run_acceptOf_completes seed i r, fun hne => absurd (Nat.mod_self _) hne⟩
  · have hmod : (k + 1) % (latency i + 1) = k + 1 := Nat.mod_eq_of_lt (Nat.succ_lt_succ hlt)
    have hobs := run_acceptOf_observe seed i r hlt
    exact ⟨fun hzero => by omega, fun _ => ⟨congrArg Observation.busy hobs, congrArg Observation.done hobs⟩⟩

/-- A round more changes nothing in what is shown. -/
theorem heldStartShows_add_round {seed : SeedTable} {i : Instr} {k : Nat} {r : Regs} (hpos : 0 < k)
    (h : heldStartShows seed i k r) : heldStartShows seed i (latency i + 1 + k) r := by
  obtain ⟨hshown, hrunning⟩ := h
  rw [heldStartShows, Nat.add_mod_left]
  exact ⟨fun hzero _ => hshown hzero hpos, hrunning⟩

/-- Within a round the held command is accepted once and then lost at every edge (40_sequencer.md R67). -/
theorem reaches_holding (s : State) (i : Instr) {n k : Nat} (hb : s.regs.busy = false) (hk : k ≤ latency i)
    (hn : k ≤ n) :
    (s.holding i (n + 1)).reaches (k + 1)
      ((s.withRegs ((run s.seed)^[k] (acceptOf i s.regs))).holding i (n - k)) := by
  have hlen : (List.replicate n (Input.offer i)).length = n := List.length_replicate
  have hrst (inp : Input) (hmem : inp ∈ List.replicate n (Input.offer i)) : inp.rst = false :=
    List.eq_of_mem_replicate hmem ▸ rfl
  have hrun := reaches_offer_running s i hb hrst hk (hlen.symm ▸ hn)
  rwa [← List.replicate_succ, List.drop_replicate, steps, steps, List.map_replicate, List.map_replicate] at hrun

theorem State.reaches_trans {s u t : State} {j k : Nat} (h : s.reaches j u) (h' : u.reaches k t) :
    s.reaches (j + k) t := by
  induction j generalizing s with
  | zero =>
    rw [(State.reaches_zero s u).1 h, Nat.zero_add]
    exact h'
  | succ j ih =>
    obtain ⟨v, hv⟩ := step_total s
    rw [Nat.succ_add]
    exact (State.reaches_succ hv _ t).2 (ih ((State.reaches_succ hv j u).1 h))

/-- After the first round the block is idle again with the rest of the held inputs before it, so the rounds follow by
induction on the number of edges. -/
theorem reaches_holding_shows (i : Instr) (k : Nat) {s : State} {n : Nat} (hb : s.regs.busy = false) (hk : k ≤ n) :
    ∃ t, (s.holding i n).reaches k t ∧ heldStartShows s.seed i k t.regs := by
  induction k using Nat.strong_induction_on generalizing s n with
  | _ k ih =>
    rcases Nat.lt_or_ge (latency i + 1) k with hlater | hfirst
    · obtain ⟨m, rfl⟩ := Nat.exists_eq_add_of_le hlater.le
      have hpos : 0 < m := by omega
      obtain ⟨n, rfl⟩ := Nat.exists_eq_succ_of_ne_zero (by omega : n ≠ 0)
      have hround := reaches_holding s i (n := n) hb (Nat.le_refl _) (by omega)
      have hidle := congrArg Observation.busy (run_acceptOf_completes s.seed i s.regs)
      obtain ⟨t, hreach, hshows⟩ := ih m (by omega)
        (s := s.withRegs ((run s.seed)^[latency i] (acceptOf i s.regs))) (n := n - latency i) hidle (by omega)
      exact ⟨t, State.reaches_trans hround hreach, heldStartShows_add_round hpos hshows⟩
    · cases k with
      | zero => exact ⟨_, (State.reaches_zero _ _).2 rfl, heldStartShows_zero _ _ _⟩
      | succ k =>
        obtain ⟨n, rfl⟩ := Nat.exists_eq_succ_of_ne_zero (by omega : n ≠ 0)
        have hle : k ≤ latency i := Nat.le_of_succ_le_succ hfirst
        exact ⟨_, reaches_holding s i hb hle (Nat.le_of_succ_le_succ hk),
          heldStartShows_firstRound s.seed i s.regs hle⟩

/-- Settles O45, round by round. -/
theorem heldStartReissues : Obligations.HeldStartReissues := by
  unfold Obligations.HeldStartReissues
  intro s i n k hb hk
  exact reaches_holding_shows i k hb hk

end Sys2Proof.Machine
